-- ==== Sys2Proof/Word.lean ====
section
/-! DEFINITION. The two data types of the engine: every datum it computes is an unsigned 32-bit word, a byte or a
one-bit flag (00_scope.md R6). -/

namespace Sys2Proof

/-- An unsigned 32-bit word; `+` on it is addition modulo 2^32 (R8). -/
abbrev Word := BitVec 32

/-- One byte of the block buffer (R24). -/
abbrev Byte := BitVec 8

end Sys2Proof
end

