-- ==== Sys2Proof/Config.lean ====
section
/-! DEFINITION. What one implementation or platform fixes (the OPEN parameters of 00_scope.md R5), and the free values
(93_implementation_defined.md part 1). None of them has a body: a statement holds whatever they are. -/

namespace Sys2Proof

/-- `draw32()` (R23, R112, U1): the word that engine k's n-th read of an unwritten H register answers. Free value, log
entry 5. -/
opaque Config.draw32 : (k n : Nat) → Word

/-- The free schedule (R62, R272, U13) of engine k: at position n, whether the outside world moves before the engine's
sequencer. Log entry 6. -/
opaque Config.outsideFirst : (k n : Nat) → Bool

/-- The free schedule (R206, R207, U14) of engine k: at position n, whether the left pipeline steps before the right
one. Log entry 6. -/
opaque Config.leftFirst : (k n : Nat) → Bool

/-- Which multiple of 256 the platform gives engine k as its `ENGINE_BASE` (R51, U11). Each engine has a window of its own
(R67, R243): the assignment is one to one. Every one-to-one assignment to the finitely many engines of a platform extends
to a permutation of the numbers, so the type leaves none out (log entry 18). -/
opaque Config.engineSlot : Equiv.Perm Nat

/-- `ENGINE_BASE` of engine k: an OPEN platform parameter, a multiple of 256 (R51). -/
def Config.engineBase (k : Nat) : Nat := 256 * Config.engineSlot k

/-- How many engines the platform holds beyond the first (R5, U12). -/
opaque Config.moreEngines : Nat

/-- `N_ENGINES`: OPEN, at least 1 (R5, R67, U12). -/
def Config.nEngines : Nat := Config.moreEngines + 1

/-- How many cycles beyond the first a COMPRESS takes (R5, U10). -/
opaque Config.latencyBeyondOne : Nat

/-- `COMPRESS_LATENCY`: OPEN, at least 1. No rule depends on it (R272) and no definition of the model reads it:
the model has no time (log entry 16). -/
def Config.compressLatency : Nat := Config.latencyBeyondOne + 1

end Sys2Proof
end

