-- ==== Sys2Proof/Syntax.lean ====
section
/-! DEFINITION. The instructions: one constructor for each of the 29 rows of the opcode map (30_encoding.md R88), and
the words the four formats BUS, CMD, FSEL and USEQ carry them in (R80). -/

namespace Sys2Proof

/-- The instructions of the opcode map, R88. Operands are the fields and data words of R83, R84, R86 and R92. -/
inductive Instr where
  /-- `RD32.H0`, R112. -/
  | rd32H0
  /-- `RD32.H1`, R112. -/
  | rd32H1
  /-- `RD32.H2`, R112. -/
  | rd32H2
  /-- `RD32.H3`, R112. -/
  | rd32H3
  /-- `RD32.H4`, R112. -/
  | rd32H4
  /-- `WR32.H0`, R113: the value is the whole `WDATA`. -/
  | wr32H0 (v : Word)
  /-- `WR32.H1`, R113. -/
  | wr32H1 (v : Word)
  /-- `WR32.H2`, R113. -/
  | wr32H2 (v : Word)
  /-- `WR32.H3`, R113. -/
  | wr32H3 (v : Word)
  /-- `WR32.H4`, R113. -/
  | wr32H4 (v : Word)
  /-- `WR8.BLK`, R115: byte index n, and the whole `WDATA`, of which bits 7:0 are used. -/
  | wr8Blk (n : BitVec 6) (wdata : Word)
  /-- `WR32.BLK`, R116: word index i and `WDATA`. -/
  | wr32Blk (i : BitVec 4) (wdata : Word)
  /-- `RD8.BLK`, R117. -/
  | rd8Blk (n : BitVec 6)
  /-- `RD32.BLK`, R118. -/
  | rd32Blk (i : BitVec 4)
  /-- `WR32.CTRL`, R119: the command word. -/
  | wr32Ctrl (c : Word)
  /-- `RD32.CTRL`, R120. -/
  | rd32Ctrl
  /-- `WR32.STATUS`, R121: `WDATA`, ignored. -/
  | wr32Status (wdata : Word)
  /-- `RD32.STATUS`, R122. -/
  | rd32Status
  /-- `NOP`, R144: CMD 0x00000000, carried by `WR32.CTRL`. -/
  | nop
  /-- `COMPRESS`, R140: CMD 0x00000001, carried by `WR32.CTRL`. -/
  | compress
  /-- `F0`, R190, with its three operand words. -/
  | f0 (b c d : Word)
  /-- `F1`, R191. -/
  | f1 (b c d : Word)
  /-- `F2`, R192. -/
  | f2 (b c d : Word)
  /-- `F3`, R193. -/
  | f3 (b c d : Word)
  /-- `F4`, R194. -/
  | f4 (b c d : Word)
  /-- `DECODE`, R160 and R201. -/
  | decode
  /-- `STEPL j`, R202: the field J of the USEQ word, a step number when below 80. -/
  | stepl (j : BitVec 7)
  /-- `STEPR j`, R203. -/
  | stepr (j : BitVec 7)
  /-- `COMBINE`, R221. -/
  | combine
deriving DecidableEq, Repr

/-- Format BUS, R81: the 11-bit descriptor `T = W << 10 | SZ << 8 | OFF` and the data lines `WDATA`, which only a
write uses. -/
structure BusReq where
  t     : BitVec 11
  wdata : Word
deriving DecidableEq, Repr

/-- Format FSEL, R85: the 3-bit selector, with the three words the round function is applied to (R190 to R194). -/
structure FselReq where
  fs : BitVec 3
  b  : Word
  c  : Word
  d  : Word
deriving DecidableEq, Repr

/-- A word in one of the four formats of R80. A decoder knows the format from where the word arrives. -/
inductive Encoded where
  /-- A host bus transaction. -/
  | bus (r : BusReq)
  /-- The write data of a `WR32.CTRL`. -/
  | cmd (c : Word)
  /-- A selector at the round-function unit. -/
  | fsel (f : FselReq)
  /-- A micro-operation word of the sequencer. -/
  | useq (u : BitVec 9)
deriving DecidableEq, Repr

/-- The names of the four formats, R80. -/
inductive Format where
  | bus
  | cmd
  | fsel
  | useq
deriving DecidableEq, Repr

/-- The target a host access selects, R53. -/
inductive Target where
  /-- An H register. -/
  | h (i : Fin 5)
  /-- One byte of the block buffer. -/
  | blkByte (n : BitVec 6)
  /-- One word (four bytes) of the block buffer. -/
  | blkWord (i : BitVec 4)
  /-- The command port. -/
  | ctrl
  /-- The status register. -/
  | status
deriving DecidableEq, Repr

/-- The commands of R84. -/
inductive Command where
  | nop
  | compress
  | reserved
deriving DecidableEq, Repr

/-- The round functions a selector names, R85. -/
inductive FSel where
  | f0
  | f1
  | f2
  | f3
  | f4
deriving DecidableEq, Repr

/-- The two pipelines, R200. -/
inductive Side where
  | left
  | right
deriving DecidableEq, Repr

/-- Why the decoder rejects a word, R89. -/
inductive Reject where
  /-- A BUS descriptor that selects no target: a bus error of the engine (R233). -/
  | busError
  /-- A CMD word other than 0 and 1: the reserved-command error of the engine (R145, R232). -/
  | reservedCommand
  /-- FSEL 101..111: never generated; a model that decodes it refuses it (R89). -/
  | reservedFsel
  /-- A reserved USEQ word of R86: never generated; a model that decodes it refuses it (R89). -/
  | reservedUseq
deriving DecidableEq, Repr

end Sys2Proof
end

