-- ==== Sys2Proof/Machine/State.lean ====
section
/-! DEFINITION. The state of the engine: every piece of state of 10_state.md R20, the ports of 40_host_interface.md
R110, and the model's own fields, each named as such in its comment. State.reset is R34. -/

namespace Sys2Proof.Machine

/-- The five state registers H[0..4], R21. -/
structure HFile where
  h0 : Word
  h1 : Word
  h2 : Word
  h3 : Word
  h4 : Word
deriving DecidableEq, Repr

/-- A working quintuple (a, b, c, d, e) of one pipeline, R29, R200. -/
structure Quint where
  a : Word
  b : Word
  c : Word
  d : Word
  e : Word
deriving DecidableEq, Repr

/-- The phases of the sequencer, R30. -/
inductive Phase where
  | idle
  | decode
  | rounds
  | combine
deriving DecidableEq, Repr

/-- A response on the response channel, R81 and R110: `rsp_rdata` and `rsp_err`. -/
structure BusRsp where
  rdata : Word
  err   : Bool
deriving DecidableEq, Repr

/-- What the outside world does to the engine (log entry 11): the host's accesses and the reset input. -/
inductive HostEvent where
  /-- The host issues a transaction (R61, R110). -/
  | access (r : BusReq)
  /-- The platform asserts `rst` (R260). -/
  | reset
deriving DecidableEq, Repr

/-- The reasons a step can fault: none. The spec says no step of the engine faults or is stuck (R237); an error of the
engine is a sticky bit set by a next state (R235). Log entry 19; safe. -/
inductive Fault where
deriving DecidableEq, Repr

/-- The reasons a step can be refused. -/
inductive Refusal where
  /-- Raised by exec's arm of an instruction that has no meaning yet. Safe: the model says nothing there. -/
  | notModelled (mnemonic : String)
  /-- Raised when the round-function unit is given a reserved selector, FSEL 101..111 (R89, U8: refused, never given
  a value). Safe: the sequencer never generates one. -/
  | reservedFsel
  /-- Raised by STEPL and STEPR with a step number of 80..127, a reserved USEQ word (R89, U8: refused, never given a
  value). Safe: the sequencer never generates one. -/
  | reservedUseq
deriving DecidableEq, Repr

/-- The engine's state, with its ports and the model's own fields. -/
structure State where
  /-- H[0..4], R21. -/
  h        : HFile
  /-- HVALID[4:0], R22. -/
  hvalid   : BitVec 5
  /-- BLK[0..63], R24: (n, BLK[n]) pairs in canonical form (log entry 17). -/
  blk      : List Host.Cell
  /-- BVALID[63:0], R25. -/
  bvalid   : BitVec 64
  /-- STATUS.BUSY, R26. -/
  busy     : Bool
  /-- STATUS.DONE, R26. -/
  done     : Bool
  /-- STATUS.ERR_BLOCK, sticky, R26. -/
  errBlock : Bool
  /-- STATUS.ERR_STATE, sticky, R26. -/
  errState : Bool
  /-- STATUS.ERR_CMD, sticky, R26. -/
  errCmd   : Bool
  /-- STATUS.ERR_BUS, sticky, R26. -/
  errBus   : Bool
  /-- X[0..15], the message schedule, R28. -/
  x        : Vector Word 16
  /-- (AL, BL, CL, DL, EL), R29. -/
  left     : Quint
  /-- (AR, BR, CR, DR, ER), R29. -/
  right    : Quint
  /-- The sequencer position, R30. -/
  seq      : Phase
  /-- How many left steps of this COMPRESS are done, R30. -/
  jL       : BitVec 7
  /-- How many right steps of this COMPRESS are done, R30. -/
  jR       : BitVec 7
  /-- The reset input, R110, R260. -/
  rst      : Bool
  /-- The request channel: the transaction the host presents and the engine has not answered, R110. -/
  req      : Option BusReq
  /-- The response channel: the response of the last transaction answered, R110 (log entry 9). -/
  rsp      : Option BusRsp
  /-- The model's own: a selector presented to the round-function unit with its operand words (log entry 12). -/
  fsel     : Option FselReq
  /-- The model's own: the word the round-function unit answered last (log entry 12). -/
  fout     : Word
  /-- The model's own: what the outside world has still to do, in order (log entry 11). -/
  host     : List HostEvent
  /-- The model's own: which engine of the platform this is; only the free values read it (log entry 18). -/
  engine   : Nat
  /-- The model's own: how many draw32() values were taken (log entry 5). -/
  draws    : Nat
  /-- The model's own: the position in the free schedule (log entry 6). -/
  sched    : Nat
deriving DecidableEq, Repr

/-- R34: the state right after reset. `H`, `BLK`, `X`, the quintuples and the step counters are unspecified there and
never observable; their values are the model's (log entries 1 to 4), as are those of its own fields. -/
def State.reset : State where
  h        := ⟨0#32, 0#32, 0#32, 0#32, 0#32⟩
  hvalid   := 0#5
  blk      := []
  bvalid   := 0#64
  busy     := false
  done     := false
  errBlock := false
  errState := false
  errCmd   := false
  errBus   := false
  x        := #v[0#32, 0#32, 0#32, 0#32, 0#32, 0#32, 0#32, 0#32, 0#32, 0#32, 0#32, 0#32, 0#32, 0#32, 0#32, 0#32]
  left     := ⟨0#32, 0#32, 0#32, 0#32, 0#32⟩
  right    := ⟨0#32, 0#32, 0#32, 0#32, 0#32⟩
  seq      := .idle
  jL       := 0#7
  jR       := 0#7
  rst      := false
  req      := none
  rsp      := none
  fsel     := none
  fout     := 0#32
  host     := []
  engine   := 0
  draws    := 0
  sched    := 0

end Sys2Proof.Machine
end

