-- ==== Sys2Proof/Machine/Flags.lean ====
section
/-! DEFINITION. The STATUS register (10_state.md R26), the completeness of the inputs (R22, R25, 41_compress.md R141) and
the error causes (60_exceptions.md R230). -/

namespace Sys2Proof.Machine

/-- R230: the error causes. -/
inductive Cause where
  /-- `ERR_BLOCK`, cause 2. -/
  | block
  /-- `ERR_STATE`, cause 3. -/
  | state
  /-- `ERR_CMD`, cause 4. -/
  | cmd
  /-- `ERR_BUS`, cause 5. -/
  | bus
deriving DecidableEq, Repr

/-- R230: the cause code, the bit number of the cause's STATUS bit. -/
def Cause.code : Cause → Nat
  | .block => 2
  | .state => 3
  | .cmd => 4
  | .bus => 5

/-- R22: `HVALID[i]`. -/
def State.hasH (s : State) (i : Fin 5) : Bool := s.hvalid.getLsbD i.val

/-- R25: `BVALID[n]`. -/
def State.hasByte (s : State) (n : Nat) : Bool := s.bvalid.getLsbD n

/-- R141: whether every word of the state has been written. -/
def State.stateOk (s : State) : Bool := s.hvalid == BitVec.allOnes 5

/-- R26, R141: `BLK_FULL`, whether every byte of the block has been written. -/
def State.blkFull (s : State) : Bool := s.bvalid == BitVec.allOnes 64

/-- R141: what `CheckInputs()` returns. -/
def State.inputsOk (s : State) : Bool := s.stateOk && s.blkFull

/-- R26, R122: the STATUS word: 19 reserved bits, HVALID[4:0], one reserved bit, BLK_FULL, ERR_BUS, ERR_CMD,
ERR_STATE, ERR_BLOCK, DONE, BUSY. -/
def State.statusWord (s : State) : Word :=
  0#19 ++ s.hvalid ++ 0#1 ++ BitVec.ofBool s.blkFull ++ BitVec.ofBool s.errBus ++ BitVec.ofBool s.errCmd
    ++ BitVec.ofBool s.errState ++ BitVec.ofBool s.errBlock ++ BitVec.ofBool s.done ++ BitVec.ofBool s.busy

/-- R230: the sticky bit of a cause. -/
def State.errBit (s : State) : Cause → Bool
  | .block => s.errBlock
  | .state => s.errState
  | .cmd => s.errCmd
  | .bus => s.errBus

end Sys2Proof.Machine
end

