-- ==== Sys2Proof/Machine/Operands.lean ====
section
/-! DEFINITION. Operand assembly: the indices and data lanes of host accesses (30_encoding.md R83, 20_memory.md R56) and
the numbered words of the register files. -/

namespace Sys2Proof.Machine

/-- R56, R83: byte k of a data word, `v[8k+7:8k]`; lane 0 is the least significant. -/
def lane (v : Word) (k : Nat) : Byte := v.extractLsb' (8 * k) 8

/-- R83, R116: the block byte that lane k of word i is, `4i + k`. -/
def blkIndex (i : BitVec 4) (k : Nat) : Nat := 4 * i.toNat + k

/-- R9: `H[i]`. -/
def HFile.get (f : HFile) : Fin 5 → Word
  | 0 => f.h0
  | 1 => f.h1
  | 2 => f.h2
  | 3 => f.h3
  | 4 => f.h4

/-- R9: `H[i] <- v`. -/
def HFile.set (f : HFile) (i : Fin 5) (v : Word) : HFile :=
  match i with
  | 0 => { f with h0 := v }
  | 1 => { f with h1 := v }
  | 2 => { f with h2 := v }
  | 3 => { f with h3 := v }
  | 4 => { f with h4 := v }

/-- R220: the words of a quintuple, numbered 0..4 in the order (a, b, c, d, e). -/
def Quint.get (q : Quint) : Fin 5 → Word
  | 0 => q.a
  | 1 => q.b
  | 2 => q.c
  | 3 => q.d
  | 4 => q.e

/-- R201: a quintuple that is a copy of the five words of the state, in the same order. -/
def HFile.toQuint (f : HFile) : Quint := ⟨f.h0, f.h1, f.h2, f.h3, f.h4⟩

end Sys2Proof.Machine
end

