-- ==== Sys2Proof/Machine/Tables.lean ====
section
/-! DEFINITION. The constant tables of 43_constant_tables.md, R170 to R176: configuration, not state (10_state.md R32).
Each is a list and a lookup by step number j (0..79) or group number g (0..4); Laws/Tables.lean proves the invariants of
R177, among them that a lookup in range never meets the default. -/

namespace Sys2Proof.Machine

/-- R170: the left additive constants, one per group. -/
def klTable : List Word := [0x00000000#32, 0x5A827999#32, 0x6ED9EBA1#32, 0x8F1BBCDC#32, 0xA953FD4E#32]

/-- R171: the right additive constants, one per group. -/
def krTable : List Word := [0x50A28BE6#32, 0x5C4DD124#32, 0x6D703EF3#32, 0x7A6D76E9#32, 0x00000000#32]

/-- R172: the left schedule index, one row per group. -/
def rlTable : List (Fin 16) :=
    [0, 1, 2, 3, 4, 5, 6, 7, 8, 9, 10, 11, 12, 13, 14, 15] ++
    [7, 4, 13, 1, 10, 6, 15, 3, 12, 0, 9, 5, 2, 14, 11, 8] ++
    [3, 10, 14, 4, 9, 15, 8, 1, 2, 7, 0, 6, 13, 11, 5, 12] ++
    [1, 9, 11, 10, 0, 8, 12, 4, 13, 3, 7, 15, 14, 5, 6, 2] ++
    [4, 0, 5, 9, 7, 12, 2, 10, 14, 1, 3, 8, 11, 6, 15, 13]

/-- R173: the right schedule index, one row per group. -/
def rrTable : List (Fin 16) :=
    [5, 14, 7, 0, 9, 2, 11, 4, 13, 6, 15, 8, 1, 10, 3, 12] ++
    [6, 11, 3, 7, 0, 13, 5, 10, 14, 15, 8, 12, 4, 9, 1, 2] ++
    [15, 5, 1, 3, 7, 14, 6, 9, 11, 8, 12, 2, 10, 0, 4, 13] ++
    [8, 6, 4, 1, 3, 11, 15, 0, 5, 12, 2, 13, 9, 7, 10, 14] ++
    [12, 15, 10, 4, 1, 5, 8, 7, 6, 2, 13, 14, 0, 3, 9, 11]

/-- R174: the left rotation amounts, one row per group. -/
def slTable : List Nat :=
    [11, 14, 15, 12, 5, 8, 7, 9, 11, 13, 14, 15, 6, 7, 9, 8] ++
    [7, 6, 8, 13, 11, 9, 7, 15, 7, 12, 15, 9, 11, 7, 13, 12] ++
    [11, 13, 6, 7, 14, 9, 13, 15, 14, 8, 13, 6, 5, 12, 7, 5] ++
    [11, 12, 14, 15, 14, 15, 9, 8, 9, 14, 5, 6, 8, 6, 5, 12] ++
    [9, 15, 5, 11, 6, 8, 13, 12, 5, 12, 13, 14, 11, 8, 5, 6]

/-- R176: the right rotation amounts, one row per group. -/
def srTable : List Nat :=
    [8, 9, 9, 11, 13, 15, 15, 5, 7, 7, 8, 11, 14, 14, 12, 6] ++
    [9, 13, 15, 7, 12, 8, 9, 11, 7, 7, 12, 7, 6, 15, 13, 11] ++
    [9, 7, 15, 11, 8, 6, 6, 14, 12, 13, 5, 14, 13, 13, 7, 5] ++
    [15, 5, 8, 11, 14, 14, 6, 14, 6, 9, 12, 9, 12, 5, 15, 8] ++
    [8, 5, 12, 9, 12, 5, 14, 6, 8, 13, 6, 5, 15, 13, 11, 11]

/-- R175: the round functions of the left pipeline, one per group. -/
def flTable : List FSel := [.f0, .f1, .f2, .f3, .f4]

/-- R175: the round functions of the right pipeline, one per group. -/
def frTable : List FSel := [.f4, .f3, .f2, .f1, .f0]

/-- R10: the group of step j. -/
def group (j : Nat) : Nat := j / 16

/-- `KL[j div 16]` or `KR[j div 16]`, R87, R170, R171. -/
def addConst : Side → Nat → Word
  | .left, j => klTable.getD (group j) 0#32
  | .right, j => krTable.getD (group j) 0#32

/-- `RL[j]` or `RR[j]`, R87, R172, R173. -/
def schedIndex : Side → Nat → Fin 16
  | .left, j => rlTable.getD j 0
  | .right, j => rrTable.getD j 0

/-- `SL[j]` or `SR[j]`, R87, R174, R176. -/
def rotAmount : Side → Nat → Nat
  | .left, j => slTable.getD j 0
  | .right, j => srTable.getD j 0

/-- `FL[j div 16]` or `FR[j div 16]`, R87, R175, R196. -/
def roundSel : Side → Nat → FSel
  | .left, j => flTable.getD (group j) .f0
  | .right, j => frTable.getD (group j) .f0

end Sys2Proof.Machine
end

