-- ==== Sys2Proof/Machine/Transform.lean ====
section
/-! DEFINITION. The compression transform as pure functions: rotation (00_scope.md R8), the five round functions
(44_round_functions.md), the message schedule (42_schedule.md), the pipeline steps (45_pipelines.md), the combiner
(46_combiner.md) and the whole transform (41_compress.md R142). -/

namespace Sys2Proof.Machine

/-- R8: circular left rotation on 32-bit words, for 0 < n < 32. Every amount used is in 5..15 (R177). -/
def rotl32 (v : Word) (n : Nat) : Word := (v <<< n) ||| (v >>> (32 - n))

/-- R190: `F0`. -/
def fun0 (b c d : Word) : Word := b ^^^ c ^^^ d

/-- R191: `F1`. -/
def fun1 (b c d : Word) : Word := (b &&& c) ||| (~~~b &&& d)

/-- R192: `F2`. -/
def fun2 (b c d : Word) : Word := (b ||| ~~~c) ^^^ d

/-- R193: `F3`. -/
def fun3 (b c d : Word) : Word := (b &&& d) ||| (c &&& ~~~d)

/-- R194: `F4`. -/
def fun4 (b c d : Word) : Word := b ^^^ (c ||| ~~~d)

/-- R85, R196: the round function a selector names. -/
def roundFun : FSel → Word → Word → Word → Word
  | .f0 => fun0
  | .f1 => fun1
  | .f2 => fun2
  | .f3 => fun3
  | .f4 => fun4

/-- R160, R55: schedule word i of a block, byte 4i least significant. -/
def scheduleWord (b : Nat → Byte) (i : Nat) : Word := b (4 * i + 3) ++ b (4 * i + 2) ++ b (4 * i + 1) ++ b (4 * i)

/-- R160: `Schedule(B)`. -/
def schedule (b : Nat → Byte) : Vector Word 16 :=
  #v[scheduleWord b 0, scheduleWord b 1, scheduleWord b 2, scheduleWord b 3,
     scheduleWord b 4, scheduleWord b 5, scheduleWord b 6, scheduleWord b 7,
     scheduleWord b 8, scheduleWord b 9, scheduleWord b 10, scheduleWord b 11,
     scheduleWord b 12, scheduleWord b 13, scheduleWord b 14, scheduleWord b 15]

/-- R202, R203: the word T of a step, from the round function, the schedule word, the additive constant and the
rotation amount. -/
def stepWord (f : FSel) (xr k : Word) (n : Nat) (q : Quint) : Word :=
  rotl32 (q.a + roundFun f q.b q.c q.d + xr + k) n + q.e

/-- R202, R203: step j of one pipeline, as a pure function of the quintuple and the schedule. -/
def pipeStep (side : Side) (j : Nat) (x : Vector Word 16) (q : Quint) : Quint :=
  ⟨q.e, stepWord (roundSel side j) (x.get (schedIndex side j)) (addConst side j) (rotAmount side j) q,
    q.b, rotl32 q.c 10, q.d⟩

/-- R205: the quintuple after the first n steps of one pipeline. -/
def pipeAfter (side : Side) (x : Vector Word 16) (q : Quint) : Nat → Quint
  | 0 => q
  | n + 1 => pipeStep side n x (pipeAfter side x q n)

/-- R205: `Pipeline(S, Hin, X)`, the quintuple after 80 steps. -/
def pipeline (side : Side) (hin : HFile) (x : Vector Word 16) : Quint := pipeAfter side x hin.toQuint 80

/-- R220: word i of `Combine(Hin, QL, QR)`; the indices are modulo 5. -/
def combineWord (hin : HFile) (ql qr : Quint) (i : Fin 5) : Word :=
  hin.get (i + 1) + ql.get (i + 2) + qr.get (i + 3)

/-- R220: `Combine(Hin, QL, QR)`, all five words from the incoming state. -/
def combine (hin : HFile) (ql qr : Quint) : HFile :=
  ⟨combineWord hin ql qr 0, combineWord hin ql qr 1, combineWord hin ql qr 2, combineWord hin ql qr 3,
    combineWord hin ql qr 4⟩

/-- R142: `Compress(Hin, B)`, the transform. -/
def compress (hin : HFile) (b : Nat → Byte) : HFile :=
  combine hin (pipeline .left hin (schedule b)) (pipeline .right hin (schedule b))

end Sys2Proof.Machine
end

