-- ==== Sys2Proof/WellFormed.lean ====
section
/-! DEFINITION. Which terms of `Instr` are instructions of the opcode map: every operand but the step number fills its
field, so the only check is `j < 80` of the STEPL and STEPR rows (30_encoding.md R88, R89). -/

namespace Sys2Proof

/-- R86, R88: a step number is 0..79; 80..127 are reserved. -/
def stepInRange (j : BitVec 7) : Bool := decide (j.toNat < 80)

/-- R88: whether the term is an instruction of the opcode map. -/
def Instr.wellFormed : Instr → Bool
  | .rd32H0 => true
  | .rd32H1 => true
  | .rd32H2 => true
  | .rd32H3 => true
  | .rd32H4 => true
  | .wr32H0 _ => true
  | .wr32H1 _ => true
  | .wr32H2 _ => true
  | .wr32H3 _ => true
  | .wr32H4 _ => true
  | .wr8Blk _ _ => true
  | .wr32Blk _ _ => true
  | .rd8Blk _ => true
  | .rd32Blk _ => true
  | .wr32Ctrl _ => true
  | .rd32Ctrl => true
  | .wr32Status _ => true
  | .rd32Status => true
  | .nop => true
  | .compress => true
  | .f0 _ _ _ => true
  | .f1 _ _ _ => true
  | .f2 _ _ _ => true
  | .f3 _ _ _ => true
  | .f4 _ _ _ => true
  | .decode => true
  | .stepl j => stepInRange j
  | .stepr j => stepInRange j
  | .combine => true

end Sys2Proof
end

