-- ==== Sys2Proof/Machine/Ops.lean ====
section
/-! DEFINITION. The named operations over the block buffer, the registers and the ports that the meanings share: the
stages of a host access (40_host_interface.md R111), raising an error (60_exceptions.md R235), the commands' effects
(41_compress.md), the micro-operations' effects, and reset (70_reset_and_hazards.md R260). -/

namespace Sys2Proof.Machine

/-! ## The block buffer's memory: (n, BLK[n]) pairs -/

/-- What an unlisted byte reads as (log entry 2). -/
def unlisted : Byte := 0x00#8

/-- R9: `BLK[n]`. -/
def Memory.read : List Host.Cell → Nat → Byte
  | [], _ => unlisted
  | (k, v) :: m, n => if k = n then v else Memory.read m n

/-- A list with an entry put in front, unless the byte is what an unlisted one reads as. -/
def Memory.push (n : Nat) (b : Byte) (m : List Host.Cell) : List Host.Cell :=
  if b = unlisted then m else (n, b) :: m

/-- R9: `BLK[n] <- b`, keeping the canonical form. -/
def Memory.write : List Host.Cell → Nat → Byte → List Host.Cell
  | [], n, b => Memory.push n b []
  | (k, v) :: m, n, b =>
    if n < k then Memory.push n b ((k, v) :: m)
    else if n = k then Memory.push n b m
    else (k, v) :: Memory.write m n b

/-- Whether every listed index is at least lo, below 64 and rising, and no listed byte is what an unlisted one reads
as. -/
def Memory.wfFrom : Nat → List Host.Cell → Bool
  | _, [] => true
  | lo, (k, v) :: m => decide (lo ≤ k) && decide (k < 64) && !(v == unlisted) && Memory.wfFrom (k + 1) m

/-- The canonical form of the block buffer (log entry 17): indices strictly rising and in 0..63 (R24), no entry equal
to what an unlisted byte reads as. -/
def Memory.wf (m : List Host.Cell) : Bool := Memory.wfFrom 0 m

/-- R24: byte n of the block buffer. -/
def State.blkByte (s : State) (n : Nat) : Byte := Memory.read s.blk n

/-! ## Registers and valid bits -/

/-- R113, R22: `H[i] <- v ; HVALID[i] <- 1`. -/
def State.writeH (s : State) (i : Fin 5) (v : Word) : State :=
  { s with h := s.h.set i v, hvalid := s.hvalid ||| (1#5 <<< i.val) }

/-- R115, R25: `BLK[n] <- b ; BVALID[n] <- 1`. -/
def State.writeByte (s : State) (n : Nat) (b : Byte) : State :=
  { s with blk := Memory.write s.blk n b, bvalid := s.bvalid ||| (1#64 <<< n) }

/-- R116, R56: the four bytes of a block word, lane k to byte 4i + k. -/
def State.writeBlkWord (s : State) (i : BitVec 4) (v : Word) : State :=
  (((s.writeByte (blkIndex i 0) (lane v 0)).writeByte (blkIndex i 1) (lane v 1)).writeByte (blkIndex i 2)
    (lane v 2)).writeByte (blkIndex i 3) (lane v 3)

/-! ## Responses and errors -/

/-- R110, R81: the engine answers the transaction at the request port: it is no longer pending, and the response
channel holds its read data and its error flag. -/
def State.answer (s : State) (rdata : Word) (err : Bool) : State :=
  { s with req := none, rsp := some ⟨rdata, err⟩ }

/-- R235, R236: raising an error of this cause, under a condition: its sticky bit is set, the other bits keep their
values, and nothing else changes. No state is saved and control goes nowhere; the access's response is
`State.answer`'s. -/
def State.raiseIf (s : State) (raised : Bool) (c : Cause) : State :=
  { s with
    errBlock := s.errBlock || (raised && decide (c = .block))
    errState := s.errState || (raised && decide (c = .state))
    errCmd := s.errCmd || (raised && decide (c = .cmd))
    errBus := s.errBus || (raised && decide (c = .bus)) }

/-- R235: raising an error. -/
def State.raise (s : State) (c : Cause) : State := s.raiseIf true c

/-- R233: `BusError(T)`: ERR_BUS, and an error response whose data is 0. -/
def State.busError (s : State) : State := (s.raise .bus).answer 0#32 true

/-- R58, R111: an access that is held is not performed and not answered; nothing changes, and it is tried again
(log entry 7). -/
def hold (s : State) : Host.Outcome State Fault Refusal := .next s

/-- R111: an access to H, BLK or CTRL: held while BUSY, else performed, with the state it leaves. -/
def access (s performed : State) : Host.Outcome State Fault Refusal :=
  if s.busy then hold s else .next performed

/-- R110: a write's response, data 0 and no error. -/
def State.ack (s : State) : State := s.answer 0#32 false

/-! ## Host accesses -/

/-- R112, R23: what a read of `H[i]` performs: the word if it has been written, else a fresh draw32(). -/
def State.readH (s : State) (i : Fin 5) : State :=
  if s.hasH i then s.answer (s.h.get i) false
  else { s with draws := s.draws + 1 }.answer (Config.draw32 s.engine s.draws) false

/-- R112: `RD32.Hi`. -/
def accessReadH (i : Fin 5) (s : State) : Host.Outcome State Fault Refusal := access s (s.readH i)

/-- R113: `WR32.Hi`. -/
def accessWriteH (i : Fin 5) (v : Word) (s : State) : Host.Outcome State Fault Refusal := access s (s.writeH i v).ack

/-- R117, R118, R120: a read that returns 0 and shows nothing. -/
def accessReadZero (s : State) : Host.Outcome State Fault Refusal := access s (s.answer 0#32 false)

/-! ## Commands -/

/-- R141: `CheckInputs()`'s effect: ERR_STATE and ERR_BLOCK, each under its own condition. -/
def State.checkInputs (s : State) : State := (s.raiseIf (!s.stateOk) .state).raiseIf (!s.blkFull) .block

/-- R140: COMPRESS, when the CTRL write is performed: DONE is cleared, the inputs are checked, and if they are complete
the command is accepted: BUSY is set and the sequencer starts at DECODE. -/
def State.issueCompress (s : State) : State :=
  { s.checkInputs with
    done := false
    busy := s.busy || s.inputsOk
    seq := if s.inputsOk then .decode else s.seq }

/-- R119: what a command does when its CTRL write is performed: NOP nothing (R144), COMPRESS R140, a reserved word
ERR_CMD (R145, R232). -/
def State.command (s : State) : Command → State
  | .nop => s
  | .compress => s.issueCompress
  | .reserved => s.raise .cmd

/-- R111, R119: a write to CTRL that carries this command. -/
def accessCommand (c : Command) (s : State) : Host.Outcome State Fault Refusal := access s (s.command c).ack

/-! ## Micro-operations -/

/-- R160, R201: the datapath effect of DECODE: the schedule from BLK, both quintuples from H, the counters 0. -/
def State.loadPipelines (s : State) : State :=
  { s with x := schedule s.blkByte, left := s.h.toQuint, right := s.h.toQuint, jL := 0#7, jR := 0#7 }

/-- R202: the datapath effect of STEPL j. -/
def State.stepLeft (s : State) (j : Nat) : State :=
  { s with left := pipeStep .left j s.x s.left, jL := s.jL + 1#7 }

/-- R203: the datapath effect of STEPR j. -/
def State.stepRight (s : State) (j : Nat) : State :=
  { s with right := pipeStep .right j s.x s.right, jR := s.jR + 1#7 }

/-- R143: the bookkeeping of a completion, with the new state. What the fields it does not name hold afterwards, the bytes
of BLK whose BVALID it clears and X, the quintuples and the counters, the spec leaves open (R28, U2, U3) and no access
shows: the model keeps the last values (DESIGN CHOICE, log entry 22). -/
def State.completeWith (s : State) (hout : HFile) : State :=
  { s with
    h := hout
    hvalid := BitVec.allOnes 5
    bvalid := 0#64
    busy := false
    done := true
    seq := .idle }

/-- R221: the effect of COMBINE: the new state from the incoming one and the two quintuples, and the completion, which
puts the sequencer in IDLE. -/
def State.combineState (s : State) : State := s.completeWith (combine s.h s.left s.right)

/-- R143: `Complete()` as one atomic event, which the micro-sequence is to equal (R208). -/
def State.complete (s : State) : State := s.completeWith (compress s.h s.blkByte)

/-- R207: whether both pipelines have done their 80 steps. -/
def State.roundsOver (s : State) : Bool := decide (80 ≤ s.jL.toNat) && decide (80 ≤ s.jR.toNat)

/-- R207: the sequencer moves to a phase, and one position of the free schedule is used (log entries 6 and 8). -/
def State.enter (s : State) (p : Phase) : State := { s with seq := p, sched := s.sched + 1 }

/-- R207: after DECODE the sequencer goes from DECODE to ROUNDS; issued in another phase, it leaves the phase. -/
def State.afterDecode (s : State) : State := s.enter (if s.seq = .decode then .rounds else s.seq)

/-- R207: after a step the sequencer goes from ROUNDS to COMBINE once both pipelines are done; else it stays. -/
def State.afterStep (s : State) : State := s.enter (if s.seq = .rounds ∧ s.roundsOver = true then .combine else s.seq)

/-- R89: a step number of 80..127 is refused; else the step is taken. -/
def microStep (j : BitVec 7) (stepped : State) : Host.Outcome State Fault Refusal :=
  if stepInRange j then .next stepped.afterStep else .refused .reservedUseq

/-- R190 to R194: the round-function unit answers: the selector is taken and the result stands at its output
(log entry 12). -/
def State.evalRound (s : State) (w : Word) : State := { s with fsel := none, fout := w }

/-! ## Reset -/

/-- R260, R261, R34: the reset event: every field of the engine takes its reset value, the transaction at the request
port is dropped without a response, and the input is low again. Which engine it is, the outside world's further events
and the counters of the free values are not the engine's state and stay. -/
def State.resetEvent (s : State) : State :=
  { State.reset with host := s.host, engine := s.engine, draws := s.draws, sched := s.sched }

/-- R110, R111, R260: `req_ready`, whether the engine would take the transaction at the request port now: not during
reset, and not while it holds it. -/
def State.reqReady (s : State) (holdable : Bool) : Bool := !s.rst && !(s.busy && holdable)

end Sys2Proof.Machine
end

