-- ==== Sys2Proof/Machine/BlockBuffer.lean ====
section
/-! DEFINITION. The meanings of WR8.BLK, WR32.BLK, RD8.BLK and RD32.BLK (40_host_interface.md R115 to R118). -/

namespace Sys2Proof.Machine

open Host (Outcome)

/-- `WR8.BLK`, R115: byte n takes `WDATA[7:0]`. -/
def execWr8Blk (n : BitVec 6) (wdata : Word) (s : State) : Outcome State Fault Refusal :=
  access s (s.writeByte n.toNat (lane wdata 0)).ack

/-- `WR32.BLK`, R116. -/
def execWr32Blk (i : BitVec 4) (wdata : Word) (s : State) : Outcome State Fault Refusal :=
  access s (s.writeBlkWord i wdata).ack

/-- `RD8.BLK`, R117: 0, whatever the byte (the index selects nothing). -/
def execRd8Blk (_n : BitVec 6) (s : State) : Outcome State Fault Refusal := accessReadZero s

/-- `RD32.BLK`, R118: 0, whatever the word. -/
def execRd32Blk (_i : BitVec 4) (s : State) : Outcome State Fault Refusal := accessReadZero s

end Sys2Proof.Machine
end

