-- ==== Sys2Proof/Decode.lean ====
section
/-! DEFINITION. The decoders of the four formats (30_encoding.md R80 to R89), total, rejecting by name; after them the
encoder, written from the same tables, and the opcode map of R88 with its match and mask columns. -/

namespace Sys2Proof

/-! ## Format BUS -/

/-- R52, R53: the H register at a window offset, if one is there. -/
def hIndex (off : BitVec 8) : Option (Fin 5) :=
  if off = 0x00#8 then some 0
  else if off = 0x04#8 then some 1
  else if off = 0x08#8 then some 2
  else if off = 0x0C#8 then some 3
  else if off = 0x10#8 then some 4
  else none

/-- R52: whether the offset is in 0x40..0x7F, the block buffer. -/
def inBlock (off : BitVec 8) : Bool := off.extractLsb' 6 2 == 0b01#2

/-- R57: whether a 32-bit access at this offset is aligned. -/
def aligned (off : BitVec 8) : Bool := off.extractLsb' 0 2 == 0b00#2

/-- R53 for a 32-bit access. -/
def wordTarget (off : BitVec 8) : Option Target :=
  match hIndex off with
  | some i => some (.h i)
  | none =>
    if inBlock off && aligned off then some (.blkWord (off.extractLsb' 2 4))
    else if off = 0xF0#8 then some .ctrl
    else if off = 0xF4#8 then some .status
    else none

/-- R53 for an 8-bit access: only the block buffer takes it. -/
def byteTarget (off : BitVec 8) : Option Target :=
  if inBlock off then some (.blkByte (off.extractLsb' 0 6)) else none

/-- R53, R81: the target that a size code and an offset select. No target is a bus error (R233); the sizes 2 and 8
(codes 01 and 11) select none. -/
def decodeTarget (sz : BitVec 2) (off : BitVec 8) : Option Target :=
  if sz = 0b10#2 then wordTarget off
  else if sz = 0b00#2 then byteTarget off
  else none

/-- R81: the fields W, SZ and OFF of a descriptor. -/
def BusReq.isWrite (r : BusReq) : Bool := r.t.getLsbD 10

/-- R81: the field SZ. -/
def BusReq.sizeCode (r : BusReq) : BitVec 2 := r.t.extractLsb' 8 2

/-- R81: the field OFF. -/
def BusReq.offset (r : BusReq) : BitVec 8 := r.t.extractLsb' 0 8

/-- The target a transaction selects, R53. -/
def BusReq.target (r : BusReq) : Option Target := decodeTarget r.sizeCode r.offset

/-- R82, R88: the read instruction of a target. -/
def readInstr : Target → Instr
  | .h 0 => .rd32H0
  | .h 1 => .rd32H1
  | .h 2 => .rd32H2
  | .h 3 => .rd32H3
  | .h 4 => .rd32H4
  | .blkByte n => .rd8Blk n
  | .blkWord i => .rd32Blk i
  | .ctrl => .rd32Ctrl
  | .status => .rd32Status

/-- R82, R88: the write instruction of a target, with its data word. -/
def writeInstr (v : Word) : Target → Instr
  | .h 0 => .wr32H0 v
  | .h 1 => .wr32H1 v
  | .h 2 => .wr32H2 v
  | .h 3 => .wr32H3 v
  | .h 4 => .wr32H4 v
  | .blkByte n => .wr8Blk n v
  | .blkWord i => .wr32Blk i v
  | .ctrl => .wr32Ctrl v
  | .status => .wr32Status v

/-- R82: decoding a host transaction. -/
def decodeBus (r : BusReq) : Except Reject Instr :=
  match r.target with
  | none => .error .busError
  | some tgt => .ok (if r.isWrite then writeInstr r.wdata tgt else readInstr tgt)

/-! ## Format CMD -/

/-- R84: the command a CMD word names. -/
def commandOf (c : Word) : Command :=
  if c = 0x00000000#32 then .nop
  else if c = 0x00000001#32 then .compress
  else .reserved

/-- R84, R89: decoding the write data of a `WR32.CTRL`. -/
def decodeCmd (c : Word) : Except Reject Instr :=
  match commandOf c with
  | .nop => .ok .nop
  | .compress => .ok .compress
  | .reserved => .error .reservedCommand

/-! ## Format FSEL -/

/-- R85: the round function a selector names; 101, 110 and 111 are reserved. -/
def fselOf (fs : BitVec 3) : Option FSel :=
  if fs = 0b000#3 then some .f0
  else if fs = 0b001#3 then some .f1
  else if fs = 0b010#3 then some .f2
  else if fs = 0b011#3 then some .f3
  else if fs = 0b100#3 then some .f4
  else none

/-- R85, R89: decoding a selector with its operand words. -/
def decodeFsel (f : FselReq) : Except Reject Instr :=
  match fselOf f.fs with
  | some .f0 => .ok (.f0 f.b f.c f.d)
  | some .f1 => .ok (.f1 f.b f.c f.d)
  | some .f2 => .ok (.f2 f.b f.c f.d)
  | some .f3 => .ok (.f3 f.b f.c f.d)
  | some .f4 => .ok (.f4 f.b f.c f.d)
  | none => .error .reservedFsel

/-! ## Format USEQ -/

/-- R86: the field UOP. -/
def uopField (u : BitVec 9) : BitVec 2 := u.extractLsb' 7 2

/-- R86: the field J. -/
def jField (u : BitVec 9) : BitVec 7 := u.extractLsb' 0 7

/-- R86, R89: decoding a micro-operation word. -/
def decodeUseq (u : BitVec 9) : Except Reject Instr :=
  if uopField u = 0b01#2 then
    if stepInRange (jField u) then .ok (.stepl (jField u)) else .error .reservedUseq
  else if uopField u = 0b10#2 then
    if stepInRange (jField u) then .ok (.stepr (jField u)) else .error .reservedUseq
  else if jField u = 0#7 then
    if uopField u = 0b00#2 then .ok .decode else .ok .combine
  else .error .reservedUseq

/-! ## All formats -/

/-- Decoding a word of any format. -/
def decode : Encoded → Except Reject Instr
  | .bus r => decodeBus r
  | .cmd c => decodeCmd c
  | .fsel f => decodeFsel f
  | .useq u => decodeUseq u

/-! ## The encoder -/

/-- R81: the descriptor `W << 10 | SZ << 8 | OFF`. -/
def busWord (w : BitVec 1) (sz : BitVec 2) (off : BitVec 8) : BitVec 11 := w ++ sz ++ off

/-- R88: the offset of a block byte, `01nnnnnn`. -/
def byteOffset (n : BitVec 6) : BitVec 8 := 0b01#2 ++ n

/-- R88: the offset of a block word, `01iiii00`. -/
def wordOffset (i : BitVec 4) : BitVec 8 := 0b01#2 ++ i ++ 0b00#2

/-- R81, R88: a read transaction; the data lines of a read carry nothing (log entry 13: zero). -/
def readReq (sz : BitVec 2) (off : BitVec 8) : Encoded := .bus ⟨busWord 0#1 sz off, 0#32⟩

/-- R81, R88: a write transaction. -/
def writeReq (sz : BitVec 2) (off : BitVec 8) (v : Word) : Encoded := .bus ⟨busWord 1#1 sz off, v⟩

/-- R86: a USEQ word. -/
def useqWord (uop : BitVec 2) (j : BitVec 7) : BitVec 9 := uop ++ j

/-- R88: the words of an instruction. -/
def encode : Instr → Encoded
  | .rd32H0 => readReq 0b10#2 0x00#8
  | .rd32H1 => readReq 0b10#2 0x04#8
  | .rd32H2 => readReq 0b10#2 0x08#8
  | .rd32H3 => readReq 0b10#2 0x0C#8
  | .rd32H4 => readReq 0b10#2 0x10#8
  | .wr32H0 v => writeReq 0b10#2 0x00#8 v
  | .wr32H1 v => writeReq 0b10#2 0x04#8 v
  | .wr32H2 v => writeReq 0b10#2 0x08#8 v
  | .wr32H3 v => writeReq 0b10#2 0x0C#8 v
  | .wr32H4 v => writeReq 0b10#2 0x10#8 v
  | .wr8Blk n v => writeReq 0b00#2 (byteOffset n) v
  | .wr32Blk i v => writeReq 0b10#2 (wordOffset i) v
  | .rd8Blk n => readReq 0b00#2 (byteOffset n)
  | .rd32Blk i => readReq 0b10#2 (wordOffset i)
  | .wr32Ctrl c => writeReq 0b10#2 0xF0#8 c
  | .rd32Ctrl => readReq 0b10#2 0xF0#8
  | .wr32Status v => writeReq 0b10#2 0xF4#8 v
  | .rd32Status => readReq 0b10#2 0xF4#8
  | .nop => .cmd 0x00000000#32
  | .compress => .cmd 0x00000001#32
  | .f0 b c d => .fsel ⟨0b000#3, b, c, d⟩
  | .f1 b c d => .fsel ⟨0b001#3, b, c, d⟩
  | .f2 b c d => .fsel ⟨0b010#3, b, c, d⟩
  | .f3 b c d => .fsel ⟨0b011#3, b, c, d⟩
  | .f4 b c d => .fsel ⟨0b100#3, b, c, d⟩
  | .decode => .useq (useqWord 0b00#2 0#7)
  | .stepl j => .useq (useqWord 0b01#2 j)
  | .stepr j => .useq (useqWord 0b10#2 j)
  | .combine => .useq (useqWord 0b11#2 0#7)

/-! ## The opcode map of R88 -/

/-- A row of the opcode map: its format, match and mask. -/
structure OpcodeRow where
  format  : Format
  pattern : Nat
  mask    : Nat
deriving DecidableEq, Repr

/-- R88: the row of each instruction. -/
def rowOf : Instr → OpcodeRow
  | .rd32H0 => ⟨.bus, 0x200, 0x7FF⟩
  | .rd32H1 => ⟨.bus, 0x204, 0x7FF⟩
  | .rd32H2 => ⟨.bus, 0x208, 0x7FF⟩
  | .rd32H3 => ⟨.bus, 0x20C, 0x7FF⟩
  | .rd32H4 => ⟨.bus, 0x210, 0x7FF⟩
  | .wr32H0 _ => ⟨.bus, 0x600, 0x7FF⟩
  | .wr32H1 _ => ⟨.bus, 0x604, 0x7FF⟩
  | .wr32H2 _ => ⟨.bus, 0x608, 0x7FF⟩
  | .wr32H3 _ => ⟨.bus, 0x60C, 0x7FF⟩
  | .wr32H4 _ => ⟨.bus, 0x610, 0x7FF⟩
  | .wr8Blk _ _ => ⟨.bus, 0x440, 0x7C0⟩
  | .wr32Blk _ _ => ⟨.bus, 0x640, 0x7C3⟩
  | .rd8Blk _ => ⟨.bus, 0x040, 0x7C0⟩
  | .rd32Blk _ => ⟨.bus, 0x240, 0x7C3⟩
  | .wr32Ctrl _ => ⟨.bus, 0x6F0, 0x7FF⟩
  | .rd32Ctrl => ⟨.bus, 0x2F0, 0x7FF⟩
  | .wr32Status _ => ⟨.bus, 0x6F4, 0x7FF⟩
  | .rd32Status => ⟨.bus, 0x2F4, 0x7FF⟩
  | .nop => ⟨.cmd, 0x00000000, 0xFFFFFFFF⟩
  | .compress => ⟨.cmd, 0x00000001, 0xFFFFFFFF⟩
  | .f0 _ _ _ => ⟨.fsel, 0x0, 0x7⟩
  | .f1 _ _ _ => ⟨.fsel, 0x1, 0x7⟩
  | .f2 _ _ _ => ⟨.fsel, 0x2, 0x7⟩
  | .f3 _ _ _ => ⟨.fsel, 0x3, 0x7⟩
  | .f4 _ _ _ => ⟨.fsel, 0x4, 0x7⟩
  | .decode => ⟨.useq, 0x000, 0x1FF⟩
  | .stepl _ => ⟨.useq, 0x080, 0x180⟩
  | .stepr _ => ⟨.useq, 0x100, 0x180⟩
  | .combine => ⟨.useq, 0x180, 0x1FF⟩

/-- R88: the rows of format BUS, in the map's order. -/
def busRows : List OpcodeRow :=
  [.rd32H0, .rd32H1, .rd32H2, .rd32H3, .rd32H4, .wr32H0 0, .wr32H1 0, .wr32H2 0, .wr32H3 0, .wr32H4 0,
    .wr8Blk 0 0, .wr32Blk 0 0, .rd8Blk 0, .rd32Blk 0, .wr32Ctrl 0, .rd32Ctrl, .wr32Status 0, .rd32Status].map rowOf

/-- R82: whether a number fits a row, `word & mask = match`. -/
def OpcodeRow.fits (r : OpcodeRow) (w : Nat) : Bool := (w &&& r.mask) == r.pattern

/-- The format a word came in, R80. -/
def Encoded.format : Encoded → Format
  | .bus _ => .bus
  | .cmd _ => .cmd
  | .fsel _ => .fsel
  | .useq _ => .useq

/-- The bits of a word that the opcode map numbers: the descriptor, the command word, the selector or the
micro-operation word. -/
def Encoded.bits : Encoded → Nat
  | .bus r => r.t.toNat
  | .cmd c => c.toNat
  | .fsel f => f.fs.toNat
  | .useq u => u.toNat

/-! ## The host's numbering of a table row -/

/-- Whether a number is the word of a micro-operation of R86. -/
def isMicroWord (w : Nat) : Bool :=
  decide (w < 2 ^ 9) &&
    match decodeUseq (BitVec.ofNat 9 w) with
    | .ok _ => true
    | .error _ => false

/-- The port at which the word of a table row arrives, from how many bits the table gives it (log entry 13): 3 (8 in
whole bytes) is FSEL, 9 is USEQ, 11 is BUS, 32 is CMD. In whole bytes BUS and USEQ rows both have 16 bits; no BUS
row's word is a micro-operation word, so a 16-bit word is USEQ when it is one and BUS otherwise. Operand words (the
write data, the three words of a round function) are zero. -/
def tableWord (nbits w : Nat) : Option Encoded :=
  if nbits ≤ 8 then
    if w < 2 ^ 3 then some (.fsel ⟨BitVec.ofNat 3 w, 0#32, 0#32, 0#32⟩) else none
  else if nbits = 9 then
    if w < 2 ^ 9 then some (.useq (BitVec.ofNat 9 w)) else none
  else if nbits ≤ 16 then
    if nbits ≠ 11 && isMicroWord w then some (.useq (BitVec.ofNat 9 w))
    else if w < 2 ^ 11 then some (.bus ⟨BitVec.ofNat 11 w, 0#32⟩) else none
  else
    if w < 2 ^ 32 then some (.cmd (BitVec.ofNat 32 w)) else none

/-- The instruction the decoder reads from a table row's word, numbered as spec/opcode_table.json numbers it. -/
def decodeTableWord (nbits w : Nat) : Option Instr :=
  match tableWord nbits w with
  | none => none
  | some e =>
    match decode e with
    | .ok i => some i
    | .error _ => none

end Sys2Proof
end

