-- ==== Sys2Proof/Machine/Control.lean ====
section
/-! DEFINITION. The meanings of WR32.CTRL, RD32.CTRL, WR32.STATUS and RD32.STATUS (40_host_interface.md R119 to R122)
and of the commands NOP and COMPRESS that a CTRL write carries (41_compress.md R140 to R145). -/

namespace Sys2Proof.Machine

open Host (Outcome)

/-- `WR32.CTRL`, R119: the command the word names. -/
def execWr32Ctrl (c : Word) (s : State) : Outcome State Fault Refusal := accessCommand (commandOf c) s

/-- `RD32.CTRL`, R120. -/
def execRd32Ctrl (s : State) : Outcome State Fault Refusal := accessReadZero s

/-- `WR32.STATUS`, R121: ignored, never held. -/
def execWr32Status (_wdata : Word) (s : State) : Outcome State Fault Refusal := .next s.ack

/-- `RD32.STATUS`, R122: never held. -/
def execRd32Status (s : State) : Outcome State Fault Refusal := .next (s.answer s.statusWord false)

/-- `NOP`, R144, carried by `WR32.CTRL` (log entry 13). -/
def execNop (s : State) : Outcome State Fault Refusal := accessCommand .nop s

/-- `COMPRESS`, R140, carried by `WR32.CTRL` (log entry 13). -/
def execCompress (s : State) : Outcome State Fault Refusal := accessCommand .compress s

end Sys2Proof.Machine
end

