-- ==== Sys2Proof/Machine/MicroOps.lean ====
section
/-! DEFINITION. The meanings of the sequencer's micro-operations DECODE, STEPL, STEPR and COMBINE (42_schedule.md R160,
45_pipelines.md R201 to R207, 46_combiner.md R221): the datapath effect, then the sequencer's move (log entry 8). -/

namespace Sys2Proof.Machine

open Host (Outcome)

/-- `DECODE`, R160, R201, R207. -/
def execDecode (s : State) : Outcome State Fault Refusal := .next s.loadPipelines.afterDecode

/-- `STEPL j`, R202, R207. -/
def execStepl (j : BitVec 7) (s : State) : Outcome State Fault Refusal := microStep j (s.stepLeft j.toNat)

/-- `STEPR j`, R203, R207. -/
def execStepr (j : BitVec 7) (s : State) : Outcome State Fault Refusal := microStep j (s.stepRight j.toNat)

/-- `COMBINE`, R221, R143, R207. -/
def execCombine (s : State) : Outcome State Fault Refusal := .next (s.combineState.enter .idle)

end Sys2Proof.Machine
end

