-- ==== Sys2Proof/Machine/RoundFunctions.lean ====
section
/-! DEFINITION. The meanings of F0..F4 (44_round_functions.md R190 to R194): the round-function unit answers the word of
the function for its three operand words (log entry 12). -/

namespace Sys2Proof.Machine

open Host (Outcome)

/-- `F0`, R190. -/
def execF0 (b c d : Word) (s : State) : Outcome State Fault Refusal := .next (s.evalRound (fun0 b c d))

/-- `F1`, R191. -/
def execF1 (b c d : Word) (s : State) : Outcome State Fault Refusal := .next (s.evalRound (fun1 b c d))

/-- `F2`, R192. -/
def execF2 (b c d : Word) (s : State) : Outcome State Fault Refusal := .next (s.evalRound (fun2 b c d))

/-- `F3`, R193. -/
def execF3 (b c d : Word) (s : State) : Outcome State Fault Refusal := .next (s.evalRound (fun3 b c d))

/-- `F4`, R194. -/
def execF4 (b c d : Word) (s : State) : Outcome State Fault Refusal := .next (s.evalRound (fun4 b c d))

end Sys2Proof.Machine
end

