-- ==== Sys2Proof/Machine/StateRegisters.lean ====
section
/-! DEFINITION. The meanings of RD32.H0..H4 and WR32.H0..H4 (40_host_interface.md R112, R113). -/

namespace Sys2Proof.Machine

open Host (Outcome)

/-- `RD32.H0`, R112. -/
def execRd32H0 (s : State) : Outcome State Fault Refusal := accessReadH 0 s

/-- `RD32.H1`, R112. -/
def execRd32H1 (s : State) : Outcome State Fault Refusal := accessReadH 1 s

/-- `RD32.H2`, R112. -/
def execRd32H2 (s : State) : Outcome State Fault Refusal := accessReadH 2 s

/-- `RD32.H3`, R112. -/
def execRd32H3 (s : State) : Outcome State Fault Refusal := accessReadH 3 s

/-- `RD32.H4`, R112. -/
def execRd32H4 (s : State) : Outcome State Fault Refusal := accessReadH 4 s

/-- `WR32.H0`, R113. -/
def execWr32H0 (v : Word) (s : State) : Outcome State Fault Refusal := accessWriteH 0 v s

/-- `WR32.H1`, R113. -/
def execWr32H1 (v : Word) (s : State) : Outcome State Fault Refusal := accessWriteH 1 v s

/-- `WR32.H2`, R113. -/
def execWr32H2 (v : Word) (s : State) : Outcome State Fault Refusal := accessWriteH 2 v s

/-- `WR32.H3`, R113. -/
def execWr32H3 (v : Word) (s : State) : Outcome State Fault Refusal := accessWriteH 3 v s

/-- `WR32.H4`, R113. -/
def execWr32H4 (v : Word) (s : State) : Outcome State Fault Refusal := accessWriteH 4 v s

end Sys2Proof.Machine
end

