-- ==== Sys2Proof/Machine/Dispatch.lean ====
section
/-! DEFINITION. The one match over the instructions: one arm per row of the opcode map (30_encoding.md R88). -/

namespace Sys2Proof.Machine

def exec (i : Instr) (s : State) : Host.Outcome State Fault Refusal :=
  match i with
  | .rd32H0 => Sys2Proof.Machine.execRd32H0 s
  | .rd32H1 => Sys2Proof.Machine.execRd32H1 s
  | .rd32H2 => Sys2Proof.Machine.execRd32H2 s
  | .rd32H3 => Sys2Proof.Machine.execRd32H3 s
  | .rd32H4 => Sys2Proof.Machine.execRd32H4 s
  | .wr32H0 v => Sys2Proof.Machine.execWr32H0 v s
  | .wr32H1 v => Sys2Proof.Machine.execWr32H1 v s
  | .wr32H2 v => Sys2Proof.Machine.execWr32H2 v s
  | .wr32H3 v => Sys2Proof.Machine.execWr32H3 v s
  | .wr32H4 v => Sys2Proof.Machine.execWr32H4 v s
  | .wr8Blk n wdata => Sys2Proof.Machine.execWr8Blk n wdata s
  | .wr32Blk k wdata => Sys2Proof.Machine.execWr32Blk k wdata s
  | .rd8Blk n => Sys2Proof.Machine.execRd8Blk n s
  | .rd32Blk k => Sys2Proof.Machine.execRd32Blk k s
  | .wr32Ctrl c => Sys2Proof.Machine.execWr32Ctrl c s
  | .rd32Ctrl => Sys2Proof.Machine.execRd32Ctrl s
  | .wr32Status wdata => Sys2Proof.Machine.execWr32Status wdata s
  | .rd32Status => Sys2Proof.Machine.execRd32Status s
  | .nop => Sys2Proof.Machine.execNop s
  | .compress => Sys2Proof.Machine.execCompress s
  | .f0 b c d => Sys2Proof.Machine.execF0 b c d s
  | .f1 b c d => Sys2Proof.Machine.execF1 b c d s
  | .f2 b c d => Sys2Proof.Machine.execF2 b c d s
  | .f3 b c d => Sys2Proof.Machine.execF3 b c d s
  | .f4 b c d => Sys2Proof.Machine.execF4 b c d s
  | .decode => Sys2Proof.Machine.execDecode s
  | .stepl j => Sys2Proof.Machine.execStepl j s
  | .stepr j => Sys2Proof.Machine.execStepr j s
  | .combine => Sys2Proof.Machine.execCombine s

end Sys2Proof.Machine
end

