-- ==== Sys2Proof/Machine/Fetch.lean ====
section
/-! DEFINITION. Where the next step comes from: reset, a selector at the round-function unit, the transaction at the
request port, the sequencer, or the outside world (60_exceptions.md R234, 20_memory.md R58, R61, R62, 45_pipelines.md
R207). The engine fetches no instructions (10_state.md R31): what it runs is what arrives at its ports and what its
sequencer issues. -/

namespace Sys2Proof

/-- R53, R58, R111: whether the instruction is an access to an H register, to the block buffer or to CTRL (the
commands NOP and COMPRESS are CTRL writes), so that it is held while `BUSY = 1`. -/
def Instr.holdable : Instr → Bool
  | .rd32H0 => true
  | .rd32H1 => true
  | .rd32H2 => true
  | .rd32H3 => true
  | .rd32H4 => true
  | .wr32H0 _ => true
  | .wr32H1 _ => true
  | .wr32H2 _ => true
  | .wr32H3 _ => true
  | .wr32H4 _ => true
  | .wr8Blk _ _ => true
  | .wr32Blk _ _ => true
  | .rd8Blk _ => true
  | .rd32Blk _ => true
  | .wr32Ctrl _ => true
  | .rd32Ctrl => true
  | .wr32Status _ => false
  | .rd32Status => false
  | .nop => true
  | .compress => true
  | .f0 _ _ _ => false
  | .f1 _ _ _ => false
  | .f2 _ _ _ => false
  | .f3 _ _ _ => false
  | .f4 _ _ _ => false
  | .decode => false
  | .stepl _ => false
  | .stepr _ => false
  | .combine => false

end Sys2Proof

namespace Sys2Proof.Machine

/-- What the next step does. -/
inductive Turn where
  /-- The reset event, R260. -/
  | reset
  /-- An instruction runs. -/
  | instr (i : Instr)
  /-- The transaction at the request port is a bus error, R233. -/
  | busError
  /-- A word that the model refuses, R89. -/
  | refuse (r : Refusal)
  /-- The sequencer leaves ROUNDS, both pipelines being done, R207. -/
  | leaveRounds
  /-- The outside world moves, to the state given. -/
  | outside (t : State)
  /-- Nothing is left to do: the engine is idle and the outside world has no further event. -/
  | idle
deriving DecidableEq, Repr

/-- R110, R61: the outside world's next move, if it can make one: it asserts reset, or the host presents its next
transaction, which it does only when the one before is answered and that response is taken. Asserting reset is a step of
its own before the reset event: in the one state between, `rst` is high and every other field of the engine, the last
response at `rsp` among them, stands as it was, where R260's timed form has `rsp_valid = 0` (DESIGN CHOICE, log entries 9
and 10). -/
def outsideMove (s : State) : Option State :=
  match s.host with
  | [] => none
  | .reset :: rest => some { s with rst := true, host := rest, sched := s.sched + 1 }
  | .access r :: rest =>
    match s.req with
    | none => some { s with req := some r, rsp := none, host := rest, sched := s.sched + 1 }
    | some _ => none

/-- R207, R206: whether the sequencer's next step in ROUNDS is a left one: the right pipeline is done, or the free
schedule says so. -/
def leftNext (s : State) : Bool :=
  decide (s.jL.toNat < 80) && (decide (80 ≤ s.jR.toNat) || Config.leftFirst s.engine s.sched)

/-- R207: the micro-operation word the sequencer issues next, R86; none in IDLE, and none in ROUNDS when both pipelines
are done. -/
def microWord (s : State) : Option (BitVec 9) :=
  match s.seq with
  | .idle => none
  | .decode => some (useqWord 0b00#2 0#7)
  | .rounds =>
    if leftNext s then some (useqWord 0b01#2 s.jL)
    else if s.jR.toNat < 80 then some (useqWord 0b10#2 s.jR)
    else none
  | .combine => some (useqWord 0b11#2 0#7)

/-- R86, R89: what a micro-operation word makes the engine do. -/
def microTurn (u : BitVec 9) : Turn :=
  match decodeUseq u with
  | .ok i => .instr i
  | .error _ => .refuse .reservedUseq

/-- R207: the sequencer's next move, if it has one. -/
def engineMove (s : State) : Option Turn :=
  match microWord s with
  | some u => some (microTurn u)
  | none =>
    match s.seq with
    | .rounds => some .leaveRounds
    | .idle => none
    | .decode => none
    | .combine => none

/-- R62, R272: with no transaction to answer, or a held one, the sequencer and the outside world move in an order left
to the free schedule. -/
def waitTurn (s : State) : Turn :=
  match engineMove s with
  | none =>
    match outsideMove s with
    | none => .idle
    | some t => .outside t
  | some e =>
    match outsideMove s with
    | none => e
    | some t => if Config.outsideFirst s.engine s.sched then .outside t else e

/-- R85, R89: what a selector at the round-function unit makes it do. -/
def fselTurn (f : FselReq) : Turn :=
  match decodeFsel f with
  | .ok i => .instr i
  | .error _ => .refuse .reservedFsel

/-- R111, R234: what the transaction at the request port makes the engine do: decode first, then the hold. That one which is
not held is answered before the outside world can raise reset, so that of the transactions pending only a held one can be
caught by a reset of the list and dropped (R260 leaves the time of a reset open), is the model's choice (DESIGN CHOICE, log
entry 10). -/
def reqTurn (s : State) (r : BusReq) : Turn :=
  match decodeBus r with
  | .error _ => .busError
  | .ok i => if s.busy && i.holdable then waitTurn s else .instr i

/-- What the next step does. Reset wins over every other event (R234, R260). That a selector pending at the round-function
unit is taken next, before the transaction at the request port and before the sequencer, is the model's choice: the port is
the model's own and the spec gives it no place in its order (DESIGN CHOICE, log entry 12). -/
def nextTurn (s : State) : Turn :=
  if s.rst then .reset
  else
    match s.fsel with
    | some f => fselTurn f
    | none =>
      match s.req with
      | some r => reqTurn s r
      | none => waitTurn s

/-! ## Placing a word where the next step takes it -/

/-- The transaction put at the request port, and, if it would be held, no COMPRESS in flight (log entry 13). -/
def State.placeReq (s : State) (r : BusReq) : State :=
  let t := { s with rst := false, fsel := none, req := some r }
  match decodeBus r with
  | .error _ => t
  | .ok i => if i.holdable then { t with busy := false, seq := .idle } else t

/-- The sequencer put where it issues this micro-operation word next, with nothing else to do first (log entry 13). A
STEPL is issued with the right pipeline done, a STEPR with the left one done, so that no choice is left to the free
schedule. -/
def State.placeMicro (s : State) (u : BitVec 9) : State :=
  let t := { s with rst := false, fsel := none, req := none, host := [], busy := true }
  if uopField u = 0b00#2 then { t with seq := .decode }
  else if uopField u = 0b01#2 then { t with seq := .rounds, jL := jField u, jR := 80#7 }
  else if uopField u = 0b10#2 then { t with seq := .rounds, jL := 80#7, jR := jField u }
  else { t with seq := .combine }

/-- A word placed at the port its format arrives at: CMD as the data of a `WR32.CTRL` (R80). -/
def State.place (s : State) : Encoded → State
  | .bus r => s.placeReq r
  | .cmd c => s.placeReq ⟨0x6F0#11, c⟩
  | .fsel f => { s with rst := false, fsel := some f }
  | .useq u =>
    match decodeUseq u with
    | .ok _ => s.placeMicro u
    | .error _ => s

/-- A table row's word placed where the next step takes it; a number that is no word of a format places nothing. -/
def State.placeTableWord (s : State) (nbits w : Nat) : State :=
  match tableWord nbits w with
  | none => s
  | some e => s.place e

end Sys2Proof.Machine
end

