-- ==== Sys2Proof/Machine/Step.lean ====
section
/-! DEFINITION. One step of the machine: the turn that Machine/Fetch.lean picks, carried out. -/

namespace Sys2Proof.Machine

/-- One step: one micro-operation, one host access, one bus error, one reset, or one move of the outside world. -/
def step (s : State) : Host.Outcome State Fault Refusal :=
  match nextTurn s with
  | .reset => .next s.resetEvent
  | .instr i => exec i s
  | .busError => .next s.busError
  | .refuse r => .refused r
  | .leaveRounds => .next s.afterStep
  | .outside t => .next t
  | .idle => .next s

/-- The state with a table row's instruction placed where `step` takes its next one (log entries 11 and 13). -/
def State.withFetchWord (s : State) (nbits w : Nat) : State := s.placeTableWord nbits w

end Sys2Proof.Machine
end

