-- ==== Sys2Proof/Machine/HostSide.lean ====
section
/-! DEFINITION. The host's side, given by the spec so that inputs can be built; none of it is behaviour of the engine
(00_scope.md R4): the pseudo-instructions of 30_encoding.md R93 as lists of accesses, and padding, serialisation and
the hashing sequence of 70_reset_and_hazards.md R264 to R267. `wait` of R93 is the host's own polling loop and has no
list of accesses. -/

namespace Sys2Proof.Machine.HostSide

/-- R92: `rd32 <off>`. -/
def rd32 (off : BitVec 8) : HostEvent := .access ⟨busWord 0#1 0b10#2 off, 0#32⟩

/-- R92: `rd8 <off>`. -/
def rd8 (off : BitVec 8) : HostEvent := .access ⟨busWord 0#1 0b00#2 off, 0#32⟩

/-- R92: `wr32 <off>, <imm32>`. -/
def wr32 (off : BitVec 8) (v : Word) : HostEvent := .access ⟨busWord 1#1 0b10#2 off, v⟩

/-- R92: `wr8 <off>, <imm8>`. -/
def wr8 (off : BitVec 8) (b : Byte) : HostEvent := .access ⟨busWord 1#1 0b00#2 off, b.zeroExtend 32⟩

/-- R93: `nop`. -/
def nop : List HostEvent := [wr32 0xF0#8 0x00000000#32]

/-- R93: `compress`. -/
def compress : List HostEvent := [wr32 0xF0#8 0x00000001#32]

/-- R93: `ldstate w0, w1, w2, w3, w4`. -/
def ldstate (w : HFile) : List HostEvent :=
  [wr32 0x00#8 w.h0, wr32 0x04#8 w.h1, wr32 0x08#8 w.h2, wr32 0x0C#8 w.h3, wr32 0x10#8 w.h4]

/-- R93, R263: the initialisation vector. -/
def iv : HFile := ⟨0x67452301#32, 0xEFCDAB89#32, 0x98BADCFE#32, 0x10325476#32, 0xC3D2E1F0#32⟩

/-- R93: `ldiv`. -/
def ldiv : List HostEvent := ldstate iv

/-- R93: `ldblock x0, ..., x15`. -/
def ldblock (x : Nat → Word) : List HostEvent :=
  (List.range 16).map fun i => wr32 (wordOffset (BitVec.ofNat 4 i)) (x i)

/-- R93: `ldbytes b0, ..., b63`. -/
def ldbytes (b : Nat → Byte) : List HostEvent :=
  (List.range 64).map fun n => wr8 (byteOffset (BitVec.ofNat 6 n)) (b n)

/-- R93: `rdstate`. -/
def rdstate : List HostEvent := [rd32 0x00#8, rd32 0x04#8, rd32 0x08#8, rd32 0x0C#8, rd32 0x10#8]

/-- R265: `LE64(n)`, the 8 bytes of n modulo 2^64, least significant first. -/
def le64 (n : Nat) : List Byte := (List.range 8).map fun k => BitVec.ofNat 8 (n >>> (8 * k))

/-- R265: how many zero bytes follow the 0x80, so that the length is 56 modulo 64. -/
def zeroFill (l : Nat) : Nat := (119 - l % 64) % 64

/-- R265: `Pad(M)`. -/
def pad (m : List Byte) : List Byte :=
  m ++ [0x80#8] ++ List.replicate (zeroFill m.length) 0x00#8 ++ le64 (8 * m.length)

/-- R265: byte n of block k of a padded message. -/
def blockByte (p : List Byte) (k n : Nat) : Byte := p.getD (64 * k + n) 0x00#8

/-- R266: the four bytes of a word, least significant first. -/
def wordBytes (v : Word) : List Byte := [lane v 0, lane v 1, lane v 2, lane v 3]

/-- R266: `Serialise(H0..H4)`. -/
def serialise (w : HFile) : List Byte :=
  wordBytes w.h0 ++ wordBytes w.h1 ++ wordBytes w.h2 ++ wordBytes w.h3 ++ wordBytes w.h4

/-- R264: the accesses of `HashMessage(M)`: the initialisation vector, then for every block the block and a COMPRESS,
then the reads of the state and of STATUS. -/
def hashMessage (m : List Byte) : List HostEvent :=
  ldiv
    ++ (List.range ((pad m).length / 64)).flatMap
        (fun k => ldblock (scheduleWord (blockByte (pad m) k)) ++ compress)
    ++ rdstate ++ [rd32 0xF4#8]

/-- R146, R264: the state that HashMessage is to read back, block by block by the transform. -/
def chain (m : List Byte) : HFile :=
  (List.range ((pad m).length / 64)).foldl (fun w k => Machine.compress w (blockByte (pad m) k)) iv

end Sys2Proof.Machine.HostSide
end

