-- ==== Sys2Proof/Machine/Platform.lean ====
section
/-! DEFINITION. The platform around the engine, as far as the spec gives it: the window of an engine in the host's
address space (20_memory.md R51) and several independent engines (R67, 60_exceptions.md R243). What else the host's
address space holds is the platform's concern (R51). -/

namespace Sys2Proof.Machine

/-- R51: the window offset of a host address, for an engine at this base: `addr - ENGINE_BASE` when it is in
0x00..0xFF. -/
def windowOffset (base addr : Nat) : Option (BitVec 8) :=
  if base ≤ addr ∧ addr < base + 256 then some (BitVec.ofNat 8 (addr - base)) else none

/-- R67, R243: the platform's `N_ENGINES` engines after reset, each with its own number, so that it has its own window and
its own free values (log entry 18). -/
def platformReset : List State := (List.range Config.nEngines).map fun k => { State.reset with engine := k }

/-- R67, R243: one step of engine k of a platform, its engines listed in order; every other engine keeps its state. Which
engine steps next is left open: every order is a run (log entry 18). -/
def platformStep (k : Nat) (engines : List State) : Host.Outcome (List State) Fault Refusal :=
  match engines[k]? with
  | none => .next engines
  | some s =>
    match step s with
    | .next t => .next (engines.set k t)
    | .fault f => .fault f
    | .refused r => .refused r

end Sys2Proof.Machine
end

