-- ==== Sys2Proof/Safety.lean ====
section
/-! DEFINITION. The terms statements are written in: what a run that may be trusted is (60_exceptions.md R237, 70 R274),
the invariants of the engine, and what it means that a part of the state is unchanged. -/

namespace Sys2Proof

open Machine

/-- R237: no error bit is set, `STATUS[5:2] = 0`: the premise of any claim about a run's result. -/
def clean (s : State) : Bool := !s.errBlock && !s.errState && !s.errCmd && !s.errBus

/-- R274: a run is over when the host has issued its last access, every access has its response, and BUSY is 0. That it is
not over while a reset is still to come, in the outside world's list or raised at `rst` with the reset event as the next
step, and that a selector pending at the model's own port does not count, is the model's choice: the spec's reset with no
time has no state in which it is raised and has not happened (DESIGN CHOICE, log entry 10). -/
def runOver (s : State) : Bool := s.host.isEmpty && s.req.isNone && !s.busy && !s.rst

/-- R274: what the end of a run shows of one state word: `some` of it, or nothing (a draw) while HVALID is 0. -/
def observeH (s : State) (i : Fin 5) : Option Word := if s.hasH i then some (s.h.get i) else none

/-- The instruction RD32.Hi, by number (R88, R112). -/
def rd32H : Fin 5 → Instr
  | 0 => .rd32H0
  | 1 => .rd32H1
  | 2 => .rd32H2
  | 3 => .rd32H3
  | 4 => .rd32H4

/-- The instruction WR32.Hi, by number (R88, R113). -/
def wr32H (v : Word) : Fin 5 → Instr
  | 0 => .wr32H0 v
  | 1 => .wr32H1 v
  | 2 => .wr32H2 v
  | 3 => .wr32H3 v
  | 4 => .wr32H4 v

/-! ## Invariants -/

/-- The block buffer is in canonical form (log entry 17). -/
abbrev MemoryOk (s : State) : Prop := Memory.wf s.blk = true

/-- R30: BUSY = 1 exactly when the sequencer is not IDLE; R30: in ROUNDS the counters are in 0..80 and not both 80;
in COMBINE both pipelines have done their 80 steps. -/
abbrev PhaseOk (s : State) : Prop :=
  (s.busy = true ↔ s.seq ≠ .idle)
    ∧ (s.seq = .rounds → s.jL.toNat ≤ 80 ∧ s.jR.toNat ≤ 80 ∧ (s.jL.toNat < 80 ∨ s.jR.toNat < 80))
    ∧ (s.seq = .combine → s.jL.toNat = 80 ∧ s.jR.toNat = 80)

/-- R122, R141: while a COMPRESS is in flight every input is valid and DONE is 0. -/
abbrev InputsHeld (s : State) : Prop :=
  s.busy = true → s.stateOk = true ∧ s.blkFull = true ∧ s.done = false

/-- R206, R208: while the rounds of a COMPRESS run, X is the schedule of BLK, and each quintuple is what its own pipeline
gives after as many steps as its counter says, whatever the interleaving was. -/
abbrev FlightOk (s : State) : Prop :=
  s.seq = .rounds ∨ s.seq = .combine →
    s.x = schedule s.blkByte
      ∧ s.left = pipeAfter .left (schedule s.blkByte) s.h.toQuint s.jL.toNat
      ∧ s.right = pipeAfter .right (schedule s.blkByte) s.h.toQuint s.jR.toNat

/-- The engine's invariant. -/
abbrev EngineInv (s : State) : Prop := MemoryOk s ∧ PhaseOk s ∧ InputsHeld s ∧ FlightOk s

/-! ## When the sequencer is next -/

/-- R58, R62: nothing but the sequencer can move: no reset and no selector pending, no move of the outside world open to it
(its list is empty, or its next access waits behind a pending one), and no transaction but one that is held. -/
abbrev EngineAlone (s : State) : Prop :=
  s.rst = false ∧ s.fsel = none ∧ outsideMove s = none
    ∧ (s.req = none ∨ ∃ r i, s.req = some r ∧ decodeBus r = .ok i ∧ s.busy = true ∧ i.holdable = true)

/-! ## What is unchanged from one state to another -/

/-- The state registers and their valid bits. -/
abbrev SameH (s t : State) : Prop := (∀ i, t.h.get i = s.h.get i) ∧ t.hvalid = s.hvalid

/-- The block buffer, byte by byte, and its valid bits. -/
abbrev SameBlock (s t : State) : Prop := (∀ n, t.blkByte n = s.blkByte n) ∧ t.bvalid = s.bvalid

/-- The four sticky error bits. -/
abbrev SameErrors (s t : State) : Prop := ∀ c, t.errBit c = s.errBit c

/-- BUSY, DONE and the sequencer position. -/
abbrev SameCommand (s t : State) : Prop := t.busy = s.busy ∧ t.done = s.done ∧ t.seq = s.seq

/-- The schedule, the quintuples and the step counters. -/
abbrev SamePipelines (s t : State) : Prop :=
  t.x = s.x ∧ t.left = s.left ∧ t.right = s.right ∧ t.jL = s.jL ∧ t.jR = s.jR

/-- The reset input, the round-function unit, the outside world's further events, and which engine it is. -/
abbrev SameWorld (s t : State) : Prop :=
  t.rst = s.rst ∧ t.fsel = s.fsel ∧ t.fout = s.fout ∧ t.host = s.host ∧ t.engine = s.engine

/-- The counters of the free values (log entries 5 and 6). -/
abbrev SameFree (s t : State) : Prop := t.draws = s.draws ∧ t.sched = s.sched

/-- The request and response channels. -/
abbrev SamePorts (s t : State) : Prop := t.req = s.req ∧ t.rsp = s.rsp

/-- Nothing but the request and response channels and the free values' counters. -/
abbrev SameEngine (s t : State) : Prop :=
  SameH s t ∧ SameBlock s t ∧ SameErrors s t ∧ SameCommand s t ∧ SamePipelines s t ∧ SameWorld s t

/-- R110: the transaction is answered, with this data and this error flag. -/
abbrev Answered (t : State) (rdata : Word) (err : Bool) : Prop := t.req = none ∧ t.rsp = some ⟨rdata, err⟩

end Sys2Proof
end

