-- ==== Sys2Proof/Certificates/Slice0/Obligations.lean ====
section
/-! DEFINITION. The statements for the provers. Each says which rule of spec/ it formalises; a statement about an
instruction names the instructions it completes. -/

open Sys2Proof Sys2Proof.Machine Host

/-! ## Encodings -/

/-- R82, R84, R85, R86, R88. Every well-formed instruction is what its own words decode to. -/
def Obligations.DecodeOfEncodeIsInstr : Prop :=
  ∀ i : Instr, i.wellFormed = true → decode (encode i) = .ok i

/-- R80, R82, R88, R91. Whatever a word decodes to is well-formed, and its encoding is that word: the same format, the
same numbered bits. -/
def Obligations.EncodeOfDecodeIsWord : Prop :=
  ∀ (e : Encoded) (i : Instr), decode e = .ok i →
    i.wellFormed = true ∧ (encode i).format = e.format ∧ (encode i).bits = e.bits

/-- R82. A descriptor that decodes fits exactly one row of the opcode map, its instruction's own; one that does not
decode fits no row and is a bus error. -/
def Obligations.BusDecodeIsTheOpcodeMap : Prop :=
  ∀ r : BusReq,
    match decodeBus r with
    | .ok i => busRows.filter (fun row => row.fits r.t.toNat) = [rowOf i]
    | .error e => e = .busError ∧ busRows.filter (fun row => row.fits r.t.toNat) = []

/-- R53. The target that a size code and an offset select, and that no other size selects one. -/
def Obligations.AccessDecodeSelectsTarget : Prop :=
  ∀ (sz : BitVec 2) (off : BitVec 8),
    (∀ i : Fin 5, decodeTarget sz off = some (.h i) ↔ sz.toNat = 2 ∧ off.toNat = 4 * i.val)
      ∧ (∀ n : BitVec 6, decodeTarget sz off = some (.blkByte n) ↔ sz.toNat = 0 ∧ off.toNat = 0x40 + n.toNat)
      ∧ (∀ i : BitVec 4, decodeTarget sz off = some (.blkWord i) ↔ sz.toNat = 2 ∧ off.toNat = 0x40 + 4 * i.toNat)
      ∧ (decodeTarget sz off = some .ctrl ↔ sz.toNat = 2 ∧ off.toNat = 0xF0)
      ∧ (decodeTarget sz off = some .status ↔ sz.toNat = 2 ∧ off.toNat = 0xF4)

/-- R84, R85, R86, R89. The selectors 0..4 name F0..F4 and 5..7 are rejected; the micro-operation words are those of
R86 and every other is rejected; the command words are 0 and 1 and every other is rejected. -/
def Obligations.ReservedEncodingsAreRejected : Prop :=
  (∀ f : FselReq,
      (f.fs.toNat = 0 → decodeFsel f = .ok (.f0 f.b f.c f.d)) ∧ (f.fs.toNat = 1 → decodeFsel f = .ok (.f1 f.b f.c f.d))
        ∧ (f.fs.toNat = 2 → decodeFsel f = .ok (.f2 f.b f.c f.d))
        ∧ (f.fs.toNat = 3 → decodeFsel f = .ok (.f3 f.b f.c f.d))
        ∧ (f.fs.toNat = 4 → decodeFsel f = .ok (.f4 f.b f.c f.d))
        ∧ (5 ≤ f.fs.toNat → decodeFsel f = .error .reservedFsel))
    ∧ (∀ (j : BitVec 7),
      (j.toNat < 80 → decodeUseq (0b01#2 ++ j) = .ok (.stepl j) ∧ decodeUseq (0b10#2 ++ j) = .ok (.stepr j))
        ∧ (80 ≤ j.toNat → decodeUseq (0b01#2 ++ j) = .error .reservedUseq
            ∧ decodeUseq (0b10#2 ++ j) = .error .reservedUseq)
        ∧ (j.toNat = 0 → decodeUseq (0b00#2 ++ j) = .ok .decode ∧ decodeUseq (0b11#2 ++ j) = .ok .combine)
        ∧ (j.toNat ≠ 0 → decodeUseq (0b00#2 ++ j) = .error .reservedUseq
            ∧ decodeUseq (0b11#2 ++ j) = .error .reservedUseq))
    ∧ (∀ c : Word,
      (c.toNat = 0 → decodeCmd c = .ok .nop) ∧ (c.toNat = 1 → decodeCmd c = .ok .compress)
        ∧ (2 ≤ c.toNat → decodeCmd c = .error .reservedCommand))

/-- R81, R88. Words written out from the opcode map, one or more of each format, decode to their instructions. -/
def Obligations.SampleWordsDecode : Prop :=
  decodeBus ⟨0b01000010000#11, 0#32⟩ = .ok .rd32H4
    ∧ decodeBus ⟨0b11000000100#11, 0xDEADBEEF#32⟩ = .ok (.wr32H1 0xDEADBEEF#32)
    ∧ decodeBus ⟨0b10001111111#11, 0x1FF#32⟩ = .ok (.wr8Blk 63#6 0x1FF#32)
    ∧ decodeBus ⟨0b11001111100#11, 0x80636261#32⟩ = .ok (.wr32Blk 15#4 0x80636261#32)
    ∧ decodeBus ⟨0b11011110000#11, 1#32⟩ = .ok (.wr32Ctrl 1#32)
    ∧ decodeBus ⟨0b01011110100#11, 0#32⟩ = .ok .rd32Status
    ∧ decodeCmd 0x00000001#32 = .ok .compress
    ∧ decodeFsel ⟨0b011#3, 1#32, 2#32, 3#32⟩ = .ok (.f3 1#32 2#32 3#32)
    ∧ decodeUseq 0b011001111#9 = .ok (.stepl 79#7)
    ∧ decodeUseq 0b110000000#9 = .ok .combine

/-! ## Host accesses -/

/-- R112, R23. RD32.H0 to RD32.H4 complete whenever BUSY = 0: a written word is answered as it is, an unwritten one as
the next draw32(), which nothing constrains (log entry 5); nothing else changes, and while BUSY the read is held. -/
def Obligations.ReadStateWord : Prop :=
  ∀ (i : Fin 5) (s : State),
    (s.busy = false → ∃ t v, exec (rd32H i) s = .next t ∧ Answered t v false ∧ SameEngine s t
        ∧ t.sched = s.sched ∧ (s.hasH i = true → v = s.h.get i ∧ t.draws = s.draws)
        ∧ (s.hasH i = false → v = Config.draw32 s.engine s.draws ∧ t.draws = s.draws + 1))
      ∧ (s.busy = true → exec (rd32H i) s = .next s)

/-- R113. `1 10 000iii00` is WR32.Hi. WR32.H0 to WR32.H4 complete whenever BUSY = 0: the word and its valid bit are written, every other word and
valid bit and everything else stays, and while BUSY the write is held. -/
def Obligations.WriteStateWord : Prop :=
  ∀ (i : Fin 5) (v : Word) (s : State),
    decodeBus ⟨0b110000#6 ++ BitVec.ofNat 3 i.val ++ 0b00#2, v⟩ = .ok (wr32H v i)
      ∧ (s.busy = false → ∃ t, exec (wr32H v i) s = .next t ∧ t.h.get i = v ∧ t.hasH i = true
        ∧ (∀ j, j ≠ i → t.h.get j = s.h.get j ∧ t.hasH j = s.hasH j)
        ∧ SameBlock s t ∧ SameErrors s t ∧ SameCommand s t ∧ SamePipelines s t ∧ SameWorld s t ∧ SameFree s t
        ∧ Answered t 0#32 false)
      ∧ (s.busy = true → exec (wr32H v i) s = .next s)

/-- R115. `1 00 01nnnnnn` is WR8.BLK. It completes whenever BUSY = 0: byte n takes WDATA[7:0] and becomes valid, every
other byte and valid bit and everything else stays, and while BUSY the write is held. The premise MemoryOk, the canonical
form of the model's own list of bytes (log entry 17), rules out states no run reaches (StepKeepsMemoryCanonical). -/
def Obligations.WriteBlockByte : Prop :=
  ∀ (n : BitVec 6) (w : Word) (s : State), MemoryOk s →
    decodeBus ⟨0b10001#5 ++ n, w⟩ = .ok (.wr8Blk n w)
      ∧ (s.busy = false → ∃ t, exec (.wr8Blk n w) s = .next t ∧ t.blkByte n.toNat = w.extractLsb' 0 8
        ∧ t.hasByte n.toNat = true
        ∧ (∀ k, k ≠ n.toNat → t.blkByte k = s.blkByte k ∧ t.hasByte k = s.hasByte k)
        ∧ SameH s t ∧ SameErrors s t ∧ SameCommand s t ∧ SamePipelines s t ∧ SameWorld s t ∧ SameFree s t
        ∧ Answered t 0#32 false)
      ∧ (s.busy = true → exec (.wr8Blk n w) s = .next s)

/-- R116. `1 10 01iiii00` is WR32.BLK. It completes whenever BUSY = 0: byte 4i + k takes WDATA[8k+7:8k] and becomes valid for k in 0..3, so
that schedule word i is WDATA; every other byte and valid bit and everything else stays; while BUSY it is held. The premise
MemoryOk, the canonical form of the model's own list of bytes (log entry 17), rules out states no run reaches
(StepKeepsMemoryCanonical). -/
def Obligations.WriteBlockWord : Prop :=
  ∀ (i : BitVec 4) (v : Word) (s : State), MemoryOk s →
    decodeBus ⟨0b11001#5 ++ i ++ 0b00#2, v⟩ = .ok (.wr32Blk i v)
      ∧ (s.busy = false → ∃ t, exec (.wr32Blk i v) s = .next t
        ∧ (∀ k, k < 4 → t.blkByte (4 * i.toNat + k) = v.extractLsb' (8 * k) 8 ∧ t.hasByte (4 * i.toNat + k) = true)
        ∧ scheduleWord t.blkByte i.toNat = v
        ∧ (∀ n, n < 4 * i.toNat ∨ 4 * i.toNat + 4 ≤ n → t.blkByte n = s.blkByte n ∧ t.hasByte n = s.hasByte n)
        ∧ SameH s t ∧ SameErrors s t ∧ SameCommand s t ∧ SamePipelines s t ∧ SameWorld s t ∧ SameFree s t
        ∧ Answered t 0#32 false)
      ∧ (s.busy = true → exec (.wr32Blk i v) s = .next s)

/-- The model's choice (log entry 17): WR8.BLK and WR32.BLK keep the block buffer's canonical form, the model's own
representation of R24's 64 bytes, whether the write is performed or held. -/
def Obligations.BlockWritesKeepCanonicalForm : Prop :=
  ∀ (n : BitVec 6) (i : BitVec 4) (w : Word) (s : State), MemoryOk s →
    ∃ t u, exec (.wr8Blk n w) s = .next t ∧ MemoryOk t ∧ exec (.wr32Blk i w) s = .next u ∧ MemoryOk u

/-- R56. A 32-bit write of a block word leaves the same state as four byte writes, of v[7:0] at the word's lowest offset,
v[15:8], v[23:16] and v[31:24] at the next ones. -/
def Obligations.WordWriteIsFourByteWrites : Prop :=
  ∀ (i : BitVec 4) (v w0 w1 w2 w3 : Word) (s : State), s.busy = false →
    w0.extractLsb' 0 8 = v.extractLsb' 0 8 → w1.extractLsb' 0 8 = v.extractLsb' 8 8 →
    w2.extractLsb' 0 8 = v.extractLsb' 16 8 → w3.extractLsb' 0 8 = v.extractLsb' 24 8 →
    ∃ a b c t, exec (.wr8Blk (i ++ 0b00#2) w0) s = .next a ∧ exec (.wr8Blk (i ++ 0b01#2) w1) a = .next b
      ∧ exec (.wr8Blk (i ++ 0b10#2) w2) b = .next c ∧ exec (.wr8Blk (i ++ 0b11#2) w3) c = .next t
      ∧ exec (.wr32Blk i v) s = .next t

/-- R117, R118, R120. `0 00 01nnnnnn`, `0 10 01iiii00` and `0 10 11110000` are RD8.BLK, RD32.BLK and RD32.CTRL. They
complete whenever BUSY = 0, whatever the block holds: they answer 0 and change nothing else. While BUSY they are held. -/
def Obligations.BlockAndControlReadsAnswerZero : Prop :=
  ∀ (n : BitVec 6) (k : BitVec 4) (w : Word) (i : Instr) (s : State), i = .rd8Blk n ∨ i = .rd32Blk k ∨ i = .rd32Ctrl →
    decodeBus ⟨0b00001#5 ++ n, w⟩ = .ok (.rd8Blk n) ∧ decodeBus ⟨0b01001#5 ++ k ++ 0b00#2, w⟩ = .ok (.rd32Blk k)
      ∧ decodeBus ⟨0b01011110000#11, w⟩ = .ok .rd32Ctrl
      ∧ (s.busy = false → ∃ t, exec i s = .next t ∧ Answered t 0#32 false ∧ SameEngine s t ∧ SameFree s t)
      ∧ (s.busy = true → exec i s = .next s)

/-- R121. `1 10 11110100` is WR32.STATUS. It always completes and changes nothing: it is never held and clears no error bit. -/
def Obligations.StatusWriteIsIgnored : Prop :=
  ∀ (w : Word) (s : State), decodeBus ⟨0b11011110100#11, w⟩ = .ok (.wr32Status w) ∧
    ∃ t, exec (.wr32Status w) s = .next t ∧ Answered t 0#32 false ∧ SameEngine s t ∧ SameFree s t

/-- R122, R26. `0 10 11110100` is RD32.STATUS. It always completes, also while BUSY, answers the STATUS word bit by bit,
and changes nothing; while a COMPRESS is in flight, its inputs being held as every step keeps them (StepKeepsEngineInv),
BUSY is 1, DONE 0 and BLK_FULL 1. -/
def Obligations.StatusReadAnswersEveryField : Prop :=
  ∀ (w : Word) (s : State), decodeBus ⟨0b01011110100#11, w⟩ = .ok .rd32Status ∧
    ∃ t v, exec .rd32Status s = .next t ∧ Answered t v false ∧ SameEngine s t ∧ SameFree s t
    ∧ v.getLsbD 0 = s.busy ∧ v.getLsbD 1 = s.done ∧ v.getLsbD 2 = s.errBlock ∧ v.getLsbD 3 = s.errState
    ∧ v.getLsbD 4 = s.errCmd ∧ v.getLsbD 5 = s.errBus
    ∧ (v.getLsbD 6 = true ↔ ∀ n, n < 64 → s.hasByte n = true) ∧ v.getLsbD 7 = false
    ∧ (∀ i : Fin 5, v.getLsbD (8 + i.val) = s.hasH i) ∧ (∀ k, 13 ≤ k → v.getLsbD k = false)
    ∧ (InputsHeld s → s.busy = true → v.getLsbD 0 = true ∧ v.getLsbD 1 = false ∧ v.getLsbD 6 = true)

/-- R230. The cause code of an error is the bit number of its STATUS bit. -/
def Obligations.CauseCodeIsStatusBit : Prop :=
  ∀ (s : State) (c : Cause), s.statusWord.getLsbD c.code = s.errBit c

/-! ## Commands -/

/-- R119, R145, R232. `1 10 11110000` is WR32.CTRL. It completes whenever BUSY = 0: 0 is a NOP, 1 is a COMPRESS, and
every other word is reserved, sets ERR_CMD, changes nothing else and is answered without an error; while BUSY it is held. -/
def Obligations.ControlWriteRunsCommand : Prop :=
  ∀ (c : Word) (s : State),
    decodeBus ⟨0b11011110000#11, c⟩ = .ok (.wr32Ctrl c)
      ∧ (c.toNat = 0 → exec (.wr32Ctrl c) s = exec .nop s) ∧ (c.toNat = 1 → exec (.wr32Ctrl c) s = exec .compress s)
      ∧ (s.busy = true → exec (.wr32Ctrl c) s = .next s)
      ∧ (s.busy = false → ∃ t, exec (.wr32Ctrl c) s = .next t ∧ Answered t 0#32 false
          ∧ (2 ≤ c.toNat → decodeCmd c = .error .reservedCommand ∧ t.errCmd = true ∧ (∀ d, d ≠ .cmd → t.errBit d = s.errBit d) ∧ SameH s t ∧ SameBlock s t
              ∧ SameCommand s t ∧ SamePipelines s t ∧ SameWorld s t ∧ SameFree s t))

/-- R144. CMD 0x00000000 is NOP. It completes whenever BUSY = 0 and changes nothing, not even DONE; while BUSY it is held. -/
def Obligations.NopChangesNothing : Prop :=
  ∀ s : State, decodeCmd 0x00000000#32 = .ok .nop
      ∧ (s.busy = false → ∃ t, exec .nop s = .next t ∧ Answered t 0#32 false ∧ SameEngine s t ∧ SameFree s t)
      ∧ (s.busy = true → exec .nop s = .next s)

/-- R140, R141. CMD 0x00000001 is COMPRESS. It completes whenever BUSY = 0: DONE is cleared; ERR_STATE is set when some state word is invalid
and ERR_BLOCK when some block byte is, both when both are, each else keeping its value; with every input valid BUSY is
set and the sequencer starts at DECODE, else both stay; nothing else changes. While BUSY it is held. -/
def Obligations.CompressChecksInputsAndStarts : Prop :=
  ∀ s : State, decodeCmd 0x00000001#32 = .ok .compress
      ∧ (s.busy = false → ∃ t, exec .compress s = .next t ∧ Answered t 0#32 false ∧ t.done = false
        ∧ (t.errState = true ↔ s.errState = true ∨ ∃ i, s.hasH i = false)
        ∧ (t.errBlock = true ↔ s.errBlock = true ∨ ∃ n, n < 64 ∧ s.hasByte n = false)
        ∧ t.errCmd = s.errCmd ∧ t.errBus = s.errBus
        ∧ ((∀ i, s.hasH i = true) ∧ (∀ n, n < 64 → s.hasByte n = true) → t.busy = true ∧ t.seq = .decode)
        ∧ ((∃ i, s.hasH i = false) ∨ (∃ n, n < 64 ∧ s.hasByte n = false) → t.busy = false ∧ t.seq = s.seq)
        ∧ SameH s t ∧ SameBlock s t ∧ SamePipelines s t ∧ SameWorld s t ∧ SameFree s t)
      ∧ (s.busy = true → exec .compress s = .next s)

/-- R58, R111. Every access to H, BLK or CTRL, the commands among them, changes nothing while BUSY = 1, and the engine is
not ready to take it. -/
def Obligations.HeldAccessChangesNothing : Prop :=
  ∀ (i : Instr) (s : State), i.holdable = true → s.busy = true →
    exec i s = .next s ∧ s.reqReady i.holdable = false

/-! ## Round functions -/

/-- R195. One row of the truth table: the bits of F0, F1, F2, F3 and F4 for one bit of b, c and d. -/
def Sys2Proof.truthRow : Bool → Bool → Bool → List Bool
  | false, false, false => [false, false, true, false, true]
  | false, false, true => [true, true, false, false, false]
  | false, true, false => [true, false, false, true, true]
  | false, true, true => [false, true, true, false, true]
  | true, false, false => [true, false, true, false, false]
  | true, false, true => [false, false, false, true, true]
  | true, true, false => [false, true, true, true, false]
  | true, true, true => [true, true, false, true, false]

/-- R195. Bit k of each round function depends only on bit k of b, c and d, as the truth table says; and the function that
a selector F0 to F4 names, which the steps of the pipelines apply (R85, R196), is that one. -/
def Obligations.RoundFunctionsMatchTruthTable : Prop :=
  ∀ (b c d : Word) (k : Nat), k < 32 →
    truthRow (b.getLsbD k) (c.getLsbD k) (d.getLsbD k) =
      [(fun0 b c d).getLsbD k, (fun1 b c d).getLsbD k, (fun2 b c d).getLsbD k, (fun3 b c d).getLsbD k,
        (fun4 b c d).getLsbD k]
      ∧ roundFun .f0 b c d = fun0 b c d ∧ roundFun .f1 b c d = fun1 b c d ∧ roundFun .f2 b c d = fun2 b c d
      ∧ roundFun .f3 b c d = fun3 b c d ∧ roundFun .f4 b c d = fun4 b c d

/-- R190 to R194. F0 to F4 always complete: the unit's output is the function's word, and nothing else changes but that
the selector is taken. Where the operands come from and where the word stands is the model's choice (log entry 12). -/
def Obligations.RoundFunctionUnitAnswers : Prop :=
  ∀ (b c d : Word) (s : State) (i : Instr) (w : Word),
    (i = .f0 b c d ∧ w = b ^^^ c ^^^ d) ∨ (i = .f1 b c d ∧ w = (b &&& c) ||| (~~~b &&& d))
        ∨ (i = .f2 b c d ∧ w = (b ||| ~~~c) ^^^ d) ∨ (i = .f3 b c d ∧ w = (b &&& d) ||| (c &&& ~~~d))
        ∨ (i = .f4 b c d ∧ w = b ^^^ (c ||| ~~~d)) →
    ∃ t, exec i s = .next t ∧ t.fout = w ∧ t.fsel = none ∧ SameH s t ∧ SameBlock s t ∧ SameErrors s t
      ∧ SameCommand s t ∧ SamePipelines s t ∧ SamePorts s t ∧ SameFree s t ∧ t.rst = s.rst ∧ t.host = s.host
      ∧ t.engine = s.engine

/-! ## Micro-operations -/

/-- R160, R201. USEQ `00 0000000` is DECODE. It always completes: X[i] is bytes 4i+3, 4i+2, 4i+1, 4i of the block, byte 4i least significant, both
quintuples are copies of H, the counters are 0; from phase DECODE the sequencer goes to ROUNDS (R207); nothing else
changes. -/
def Obligations.DecodeLoadsPipelines : Prop :=
  ∀ s : State, decodeUseq 0b000000000#9 = .ok .decode ∧ ∃ t, exec .decode s = .next t
    ∧ (∀ i : Fin 16, t.x.get i = s.blkByte (4 * i.val + 3) ++ s.blkByte (4 * i.val + 2) ++ s.blkByte (4 * i.val + 1)
        ++ s.blkByte (4 * i.val))
    ∧ (∀ i : Fin 5, t.left.get i = s.h.get i ∧ t.right.get i = s.h.get i) ∧ t.jL = 0#7 ∧ t.jR = 0#7
    ∧ (s.seq = .decode → t.seq = .rounds)
    ∧ t.busy = s.busy ∧ t.done = s.done ∧ SameH s t ∧ SameBlock s t ∧ SameErrors s t ∧ SameWorld s t ∧ SamePorts s t
    ∧ t.draws = s.draws

/-- R202. USEQ `01 jjjjjjj` is STEPL j. It completes for every j < 80, with the table entries of step j: T and the new
quintuple are as the rule says, all from the old quintuple, and jL counts; in ROUNDS the sequencer goes to COMBINE when
both counters have reached 80, else it stays (R207); nothing else changes. -/
def Obligations.LeftStepComputesQuintuple : Prop :=
  ∀ (j : BitVec 7) (s : State), j.toNat < 80 → decodeUseq (0b01#2 ++ j) = .ok (.stepl j)
    ∧ ∃ t r k n f, exec (.stepl j) s = .next t
    ∧ rlTable[j.toNat]? = some r ∧ klTable[j.toNat / 16]? = some k ∧ slTable[j.toNat]? = some n
    ∧ flTable[j.toNat / 16]? = some f
    ∧ t.left = ⟨s.left.e, rotl32 (s.left.a + roundFun f s.left.b s.left.c s.left.d + s.x.get r + k) n + s.left.e,
        s.left.b, rotl32 s.left.c 10, s.left.d⟩
    ∧ t.jL = s.jL + 1#7 ∧ t.x = s.x ∧ t.right = s.right ∧ t.jR = s.jR
    ∧ (s.seq = .rounds → t.seq = if 80 ≤ t.jL.toNat ∧ 80 ≤ t.jR.toNat then .combine else .rounds)
    ∧ t.busy = s.busy ∧ t.done = s.done ∧ SameH s t ∧ SameBlock s t ∧ SameErrors s t ∧ SameWorld s t ∧ SamePorts s t
    ∧ t.draws = s.draws

/-- R203. USEQ `10 jjjjjjj` is STEPR j. It completes for every j < 80: as STEPL, with the right quintuple, tables and counter. -/
def Obligations.RightStepComputesQuintuple : Prop :=
  ∀ (j : BitVec 7) (s : State), j.toNat < 80 → decodeUseq (0b10#2 ++ j) = .ok (.stepr j)
    ∧ ∃ t r k n f, exec (.stepr j) s = .next t
    ∧ rrTable[j.toNat]? = some r ∧ krTable[j.toNat / 16]? = some k ∧ srTable[j.toNat]? = some n
    ∧ frTable[j.toNat / 16]? = some f
    ∧ t.right = ⟨s.right.e, rotl32 (s.right.a + roundFun f s.right.b s.right.c s.right.d + s.x.get r + k) n + s.right.e,
        s.right.b, rotl32 s.right.c 10, s.right.d⟩
    ∧ t.jR = s.jR + 1#7 ∧ t.x = s.x ∧ t.left = s.left ∧ t.jL = s.jL
    ∧ (s.seq = .rounds → t.seq = if 80 ≤ t.jL.toNat ∧ 80 ≤ t.jR.toNat then .combine else .rounds)
    ∧ t.busy = s.busy ∧ t.done = s.done ∧ SameH s t ∧ SameBlock s t ∧ SameErrors s t ∧ SameWorld s t ∧ SamePorts s t
    ∧ t.draws = s.draws

/-- The model's choice (log entry 8): issued outside its own phase, which the sequencer of R207 never does, DECODE, STEPL
or STEPR leaves the phase as it is. -/
def Obligations.OutOfPhaseMicroOpLeavesPhase : Prop :=
  ∀ (j : BitVec 7) (s : State),
    (s.seq ≠ .decode → ∃ t, exec .decode s = .next t ∧ t.seq = s.seq)
      ∧ (s.seq ≠ .rounds → j.toNat < 80 →
        ∃ t u, exec (.stepl j) s = .next t ∧ t.seq = s.seq ∧ exec (.stepr j) s = .next u ∧ u.seq = s.seq)

/-- R89, U8. A step number of 80..127 is refused, never given a value. -/
def Obligations.ReservedStepIsRefused : Prop :=
  ∀ (j : BitVec 7) (s : State), 80 ≤ j.toNat →
    exec (.stepl j) s = .refused .reservedUseq ∧ exec (.stepr j) s = .refused .reservedUseq

/-- R8, R202, R203. Each step rotates by amounts strictly between 0 and 32, and rotl32 there is the circular rotation: bit
k of the result is bit (k - n) modulo 32 of the word. -/
def Obligations.RotationIsCircular : Prop :=
  (∀ (side : Side) (j : Nat), j < 80 → 0 < rotAmount side j ∧ rotAmount side j < 32)
    ∧ ∀ (v : Word) (n k : Nat), 0 < n → n < 32 → k < 32 → (rotl32 v n).getLsbD k = v.getLsbD ((k + 32 - n) % 32)

/-- R220, R221. USEQ `11 0000000` is COMBINE. It always completes: every new state word is H[i+1] + QL[i+2] + QR[i+3], indices modulo 5, all from
the incoming state; every state word becomes valid and every block byte invalid, BUSY is 0, DONE is 1, the sequencer is
IDLE; the error bits, the ports and the outside world stay. What BLK, X, the quintuples and the counters hold then, which
the spec leaves open, is CombineKeepsBlockAndPipelines. -/
def Obligations.CombineWritesStateAndCompletes : Prop :=
  ∀ s : State, decodeUseq 0b110000000#9 = .ok .combine ∧ ∃ t, exec .combine s = .next t
    ∧ (∀ i : Fin 5, t.h.get i = s.h.get (i + 1) + s.left.get (i + 2) + s.right.get (i + 3))
    ∧ (∀ i, t.hasH i = true) ∧ (∀ n, t.hasByte n = false) ∧ t.busy = false ∧ t.done = true ∧ t.seq = .idle
    ∧ SameErrors s t ∧ SameWorld s t ∧ SamePorts s t ∧ t.draws = s.draws

/-- The model's choice (log entry 22): after COMBINE the bytes of BLK, X, both quintuples and both counters hold their last
values. The spec leaves them open there (R28, U2, U3) and no access shows them. -/
def Obligations.CombineKeepsBlockAndPipelines : Prop :=
  ∀ s : State, ∃ t, exec .combine s = .next t ∧ (∀ n, t.blkByte n = s.blkByte n) ∧ SamePipelines s t

/-! ## Tables and the transform -/

/-- R170 to R176. The constant tables: the additive constants; the schedule indices, group 0 of the left the identity, group
0 of the right pi(i) = 9i + 5 modulo 16, and each later group rho applied once more to the one before, rho being the group-1
row of the left; the rotation amounts as listed; the left function order F0 to F4 and the right one F4 to F0. The spec marks
these values as its own, from general knowledge. -/
def Obligations.ConstantTablesAreTheSpecs : Prop :=
  klTable = [0x00000000#32, 0x5A827999#32, 0x6ED9EBA1#32, 0x8F1BBCDC#32, 0xA953FD4E#32]
    ∧ krTable = [0x50A28BE6#32, 0x5C4DD124#32, 0x6D703EF3#32, 0x7A6D76E9#32, 0x00000000#32]
    ∧ flTable = [.f0, .f1, .f2, .f3, .f4] ∧ frTable = [.f4, .f3, .f2, .f1, .f0]
    ∧ rlTable.length = 80 ∧ rrTable.length = 80
    ∧ (∀ i, i < 16 → rlTable[i]?.map Fin.val = some i ∧ rrTable[i]?.map Fin.val = some ((9 * i + 5) % 16))
    ∧ (∀ i, i < 64 →
        rlTable[16 + i]?.map Fin.val
            = (rlTable[i]?).bind (fun k => [7, 4, 13, 1, 10, 6, 15, 3, 12, 0, 9, 5, 2, 14, 11, 8][k.val]?)
          ∧ rrTable[16 + i]?.map Fin.val
            = (rrTable[i]?).bind (fun k => [7, 4, 13, 1, 10, 6, 15, 3, 12, 0, 9, 5, 2, 14, 11, 8][k.val]?))
    ∧ slTable = [11, 14, 15, 12, 5, 8, 7, 9, 11, 13, 14, 15, 6, 7, 9, 8, 7, 6, 8, 13, 11, 9, 7, 15, 7, 12, 15, 9, 11, 7, 13, 12,
        11, 13, 6, 7, 14, 9, 13, 15, 14, 8, 13, 6, 5, 12, 7, 5]
      ++ [11, 12, 14, 15, 14, 15, 9, 8, 9, 14, 5, 6, 8, 6, 5, 12, 9, 15, 5, 11, 6, 8, 13, 12, 5, 12, 13, 14, 11, 8, 5, 6]
    ∧ srTable = [8, 9, 9, 11, 13, 15, 15, 5, 7, 7, 8, 11, 14, 14, 12, 6, 9, 13, 15, 7, 12, 8, 9, 11, 7, 7, 12, 7, 6, 15, 13, 11,
        9, 7, 15, 11, 8, 6, 6, 14, 12, 13, 5, 14, 13, 13, 7, 5]
      ++ [15, 5, 8, 11, 14, 14, 6, 14, 6, 9, 12, 9, 12, 5, 15, 8, 8, 5, 12, 9, 12, 5, 14, 6, 8, 13, 6, 5, 15, 13, 11, 11]

/-- R161, R177. Within each 16-step group each pipeline reads every schedule word exactly once. -/
def Obligations.GroupReadsEveryWordOnce : Prop :=
  ∀ (side : Side) (g : Fin 5) (w : Fin 16),
    ∃ k : Fin 16, schedIndex side (16 * g.val + k.val) = w
      ∧ ∀ k' : Fin 16, schedIndex side (16 * g.val + k'.val) = w → k' = k

/-- R206. The two pipelines are independent: the next left and the next right step leave the same state in either
order. -/
def Obligations.LeftAndRightStepsCommute : Prop :=
  ∀ s : State, s.jL.toNat < 80 → s.jR.toNat < 80 → ∃ a b t,
    exec (.stepl s.jL) s = .next a ∧ exec (.stepr s.jR) a = .next t
      ∧ exec (.stepr s.jR) s = .next b ∧ exec (.stepl s.jL) b = .next t

/-- R142. The transform's result depends on the five words and the 64 bytes alone. -/
def Obligations.CompressDependsOnBlockBytes : Prop :=
  ∀ (hin : HFile) (b b' : Nat → Byte), (∀ n, n < 64 → b n = b' n) → compress hin b = compress hin b'

/-! ## Steps -/

/-- R111, R207. A step runs the decoded instruction: the transaction at the request port when it is not held and, when
nothing but the sequencer can move, the micro-operation of the sequencer's phase; with both pipelines still to step, which
comes first is the free value of the schedule's position (R206, log entry 6). Nothing is added around the instruction.
That a selector at the round-function unit is a step of its own, taken before both, is the model's choice (log entry 12). -/
def Obligations.StepRunsTheDecodedInstruction : Prop :=
  (∀ (s : State) (r : BusReq) (i : Instr), s.rst = false → s.fsel = none → s.req = some r → decodeBus r = .ok i →
      (s.busy = false ∨ i.holdable = false) → step s = exec i s)
    ∧ (∀ (s : State) (f : FselReq) (i : Instr), s.rst = false → s.fsel = some f → decodeFsel f = .ok i →
      step s = exec i s)
    ∧ (∀ s : State, EngineAlone s →
      (s.seq = .decode → step s = exec .decode s)
        ∧ (s.seq = .rounds → s.jL.toNat < 80 → 80 ≤ s.jR.toNat → step s = exec (.stepl s.jL) s)
        ∧ (s.seq = .rounds → 80 ≤ s.jL.toNat → s.jR.toNat < 80 → step s = exec (.stepr s.jR) s)
        ∧ (s.seq = .rounds → s.jL.toNat < 80 → s.jR.toNat < 80 →
            step s = if Config.leftFirst s.engine s.sched then exec (.stepl s.jL) s else exec (.stepr s.jR) s)
        ∧ (s.seq = .combine → step s = exec .combine s))

/-- R61, R110. With the engine idle and no transaction pending, the host's next access is presented at the request port,
in order, and nothing of the engine changes; with BUSY = 0, as it is in IDLE, the step after it is that access, or its bus
error. The list of the host's further accesses, the clearing of the last response and the engine's number are the model's
(log entries 11, 9, 18). -/
def Obligations.HostAccessIsPresentedInOrder : Prop :=
  ∀ (s : State) (r : BusReq) (rest : List HostEvent), s.rst = false → s.fsel = none → s.req = none → s.seq = .idle →
    s.host = .access r :: rest →
    ∃ t, step s = .next t ∧ t.req = some r ∧ t.rsp = none ∧ t.host = rest ∧ t.rst = false ∧ t.fsel = none
      ∧ SameH s t ∧ SameBlock s t ∧ SameErrors s t ∧ SameCommand s t ∧ SamePipelines s t ∧ t.fout = s.fout
      ∧ t.engine = s.engine ∧ t.draws = s.draws
      ∧ (s.busy = false → (∀ i, decodeBus r = .ok i → step t = exec i t)
        ∧ (∀ e, decodeBus r = .error e → step t = .next t.busError))

/-- R62, R272. Which comes first, the host's next access or the completion, is left to the schedule: with COMBINE to be
issued and an access to be presented, the step presents the access if the free value of the schedule's position says so
and is COMBINE if not. That value, of which nothing is known, is log entry 6's; the list of the host's further accesses and
the clearing of the last response are the model's (log entries 11, 9). -/
def Obligations.AccessMayFallOnEitherSideOfCompletion : Prop :=
  ∀ (s : State) (r : BusReq) (rest : List HostEvent), s.rst = false → s.fsel = none → s.req = none →
    s.seq = .combine → s.host = .access r :: rest →
    step s = if Config.outsideFirst s.engine s.sched
      then .next { s with req := some r, rsp := none, host := rest, sched := s.sched + 1 } else exec .combine s

/-- R233, R234. A transaction of one of the four cases of the rule is answered at once, also while BUSY: ERR_BUS is set,
the response has the error flag and data 0, and nothing else changes. -/
def Obligations.BusErrorIsAnsweredAtOnce : Prop :=
  ∀ (s : State) (r : BusReq), s.rst = false → s.fsel = none → s.req = some r →
    (r.sizeCode.toNat = 1 ∨ r.sizeCode.toNat = 3
        ∨ (r.sizeCode.toNat = 2 ∧ ((0x14 ≤ r.offset.toNat ∧ r.offset.toNat ≤ 0x3F)
            ∨ (0x80 ≤ r.offset.toNat ∧ r.offset.toNat ≤ 0xEF) ∨ 0xF8 ≤ r.offset.toNat))
        ∨ (r.sizeCode.toNat = 0 ∧ ¬(0x40 ≤ r.offset.toNat ∧ r.offset.toNat ≤ 0x7F))
        ∨ (r.sizeCode.toNat = 2 ∧ r.offset.toNat % 4 ≠ 0)) →
    ∃ t, step s = .next t ∧ t.errBus = true ∧ (∀ d, d ≠ .bus → t.errBit d = s.errBit d) ∧ Answered t 0#32 true
      ∧ SameH s t ∧ SameBlock s t ∧ SameCommand s t ∧ SamePipelines s t ∧ SameWorld s t ∧ SameFree s t

/-- R260, R261. Reset wins over everything: the step is the reset event, also while BUSY and with a transaction pending:
before it the engine is not ready to take any transaction; after it every valid bit and STATUS flag is 0, the sequencer
is IDLE, the transaction is dropped without a response, and no word can be read back as if it were valid. That the event
lowers the input again, and keeps the outside world's further events and the engine's number, is the model's choice (log
entries 10, 11, 18). -/
def Obligations.ResetEventClearsEngine : Prop :=
  ∀ s : State, s.rst = true → (∀ holdable, s.reqReady holdable = false) ∧ ∃ t, step s = .next t ∧ t.rst = false
    ∧ (∀ i, t.hasH i = false)
    ∧ (∀ n, t.hasByte n = false) ∧ t.busy = false ∧ t.done = false ∧ (∀ c, t.errBit c = false)
    ∧ t.statusWord = 0#32 ∧ t.seq = .idle ∧ t.req = none ∧ t.rsp = none ∧ t.host = s.host
    ∧ t.engine = s.engine

/-- R34. After reset no state word and no block byte is valid, every STATUS flag is 0 and STATUS reads 0x00000000, the
sequencer is IDLE, and no transaction is pending. -/
def Obligations.ResetStateIsAsTheSpecSays : Prop :=
  (∀ i, State.reset.hasH i = false) ∧ (∀ n, State.reset.hasByte n = false) ∧ (∀ c, State.reset.errBit c = false)
    ∧ State.reset.busy = false ∧ State.reset.done = false ∧ State.reset.statusWord = 0x00000000#32
    ∧ State.reset.seq = .idle ∧ State.reset.req = none ∧ State.reset.rsp = none ∧ core.reset = State.reset

/-- R237, R89. Every step of the engine answers a next state: none is stuck, none faults, and the sequencer never issues a
reserved micro-operation word. That there is no fault at all is read from R237 (log entry 19, DEDUCED). The one exception is
the model's own: a reserved selector standing at `fsel`, a port the spec does not give (log entry 12, DESIGN CHOICE), is
refused (log entry 14, DEDUCED). -/
def Obligations.OnlyAReservedSelectorIsRefused : Prop :=
  ∀ s : State, (∃ t, step s = .next t)
    ∨ (step s = .refused .reservedFsel ∧ ∃ f, s.fsel = some f ∧ 5 ≤ f.fs.toNat)

/-! ## Invariants -/

/-- The engine's invariant holds after reset. -/
def Obligations.EngineInvAtReset : Prop := EngineInv State.reset

/-- R24. Every step keeps the block buffer in its canonical form (log entry 17). -/
def Obligations.StepKeepsMemoryCanonical : Prop :=
  ∀ s t : State, MemoryOk s → step s = .next t → MemoryOk t

/-- R30, R122, R206, R208. Every step keeps the engine's invariant: BUSY = 1 exactly when the sequencer is not IDLE, the
counters stay in 0..80, the inputs of a COMPRESS in flight stay valid with DONE = 0, and X and each quintuple are what
the schedule and as many steps of their own pipeline give, whatever the interleaving. -/
def Obligations.StepKeepsEngineInv : Prop :=
  ∀ s t : State, EngineInv s → step s = .next t → EngineInv t

/-- R236, R26. The error bits are sticky: a step that is not the reset event clears none. -/
def Obligations.ErrorBitsAreSticky : Prop :=
  ∀ (s t : State) (c : Cause), s.rst = false → step s = .next t → s.errBit c = true → t.errBit c = true

/-- R22. A state word's valid bit is cleared only by reset. -/
def Obligations.StateValidBitsAreClearedOnlyByReset : Prop :=
  ∀ (s t : State) (i : Fin 5), s.rst = false → step s = .next t → s.hasH i = true → t.hasH i = true

/-- R21. Outside reset, a state word changes only by the host's write of that word, while BUSY = 0, or by COMBINE. -/
def Obligations.StateWordsChangeOnlyByHostOrCombine : Prop :=
  ∀ (s t : State) (i : Fin 5), s.rst = false → step s = .next t → t.h.get i ≠ s.h.get i →
    (s.busy = false ∧ ∃ r v, s.req = some r ∧ decodeBus r = .ok (wr32H v i) ∧ t.h.get i = v)
      ∨ (s.seq = .combine ∧ step s = exec .combine s)

/-- R24, R58. While a COMPRESS is in flight its inputs cannot change: outside reset, a step leaves every block byte as it
was and, unless it is COMBINE itself, every state word and every valid bit. That COMBINE too leaves the block's bytes, whose
valid bits it clears, is the model's choice (log entry 22). -/
def Obligations.InputsAreImmutableInFlight : Prop :=
  ∀ s t : State, s.busy = true → s.rst = false → step s = .next t →
    (∀ n, t.blkByte n = s.blkByte n)
      ∧ ((SameH s t ∧ t.bvalid = s.bvalid) ∨ (s.seq = .combine ∧ step s = exec .combine s))

/-! ## The COMPRESS as a whole -/

/-- R208, R143, R142. From phase DECODE, when nothing but the sequencer can move, 162 steps (1 DECODE, 80 left
and 80 right steps in whatever interleaving the free schedule picks, 1 COMBINE) leave what the atomic Complete() leaves:
H is Compress(H, BLK), all of H valid, no block byte valid, BUSY 0, DONE 1, the sequencer IDLE, errors and ports as they
were. That the block's bytes are as they were too is the model's choice (log entry 22), as is the count of steps, one for each
micro-operation (log entry 8). -/
def Obligations.MicroSequenceComputesCompress : Prop :=
  ∀ s : State, EngineAlone s → s.busy = true → s.seq = .decode →
    ∃ t, core.run 162 s = .next t ∧ t.h = compress s.h s.blkByte ∧ (∀ i, t.hasH i = true)
      ∧ (∀ n, t.hasByte n = false) ∧ t.busy = false ∧ t.done = true ∧ t.seq = .idle ∧ SameErrors s t
      ∧ (∀ n, t.blkByte n = s.blkByte n) ∧ SameWorld s t ∧ SamePorts s t ∧ t.draws = s.draws

/-- R58, R112. An access held by a COMPRESS, whatever further accesses wait behind it, is performed just after completion:
162 steps from phase DECODE reach the completion, with H = Compress(H, BLK), BUSY 0, DONE 1 and no block byte valid, and the
163rd is the access on that state, so a held RD32.Hi answers the new state word. The list of further accesses, and the count
of steps, one for each micro-operation, are the model's (log entries 11, 8). -/
def Obligations.HeldAccessIsPerformedAfterCompletion : Prop :=
  ∀ (s : State) (r : BusReq) (i : Instr), s.rst = false → s.fsel = none →
    (s.host = [] ∨ ∃ a rest, s.host = .access a :: rest) → s.busy = true →
    s.seq = .decode → s.req = some r → decodeBus r = .ok i → i.holdable = true →
    ∃ t, core.run 162 s = .next t ∧ t.h = compress s.h s.blkByte ∧ t.busy = false ∧ t.done = true
      ∧ (∀ n, t.hasByte n = false) ∧ t.req = some r ∧ core.run 163 s = exec i t
      ∧ (∀ k, i = rd32H k → ∃ u, core.run 163 s = .next u ∧ Answered u ((compress s.h s.blkByte).get k) false)

/-- R143, R237. From every state of the engine's invariant with a COMPRESS in flight, the COMPRESS completes with
H = Compress(H, BLK) and DONE = 1, whatever accesses the host has still to issue, STATUS polls and bus errors among them, as
long as no reset is among its events and no selector is pending: within 163 steps and two for each access; and within 162
steps when nothing but the sequencer can move. That no fairness is assumed, and both bounds, are the model's: the outside
world's events are a finite list (log entry 11), so every COMPRESS completes (log entry 15, DEDUCED). -/
def Obligations.EveryCompressInFlightCompletes : Prop :=
  ∀ s : State, EngineInv s → s.rst = false → s.fsel = none → s.busy = true → (∀ e, e ∈ s.host → e ≠ .reset) →
    (∃ n t, n ≤ 163 + 2 * s.host.length ∧ core.run n s = .next t ∧ t.busy = false ∧ t.done = true
        ∧ t.h = compress s.h s.blkByte)
      ∧ (EngineAlone s → ∃ n t, n ≤ 162 ∧ core.run n s = .next t ∧ t.busy = false ∧ t.done = true
        ∧ t.h = compress s.h s.blkByte)

/-- R273. The control of the engine does not depend on data: two states that agree in everything but the words of H,
BLK, X and the quintuples, with no transaction pending and the outside world silent, do the same: after a step they agree
again in the sequencer's phase, its counters, BUSY, DONE and the whole of STATUS, and in the position of the free schedule,
which is the model's, as is the list of the outside world's events (log entries 6, 11). -/
def Obligations.ControlIsDataIndependent : Prop :=
  ∀ (s : State) (h : HFile) (m : List Cell) (x : Vector Word 16) (l r : Quint), s.rst = false → s.fsel = none →
    s.req = none → s.host = [] →
    ∃ t u, step s = .next t ∧ step { s with h := h, blk := m, x := x, left := l, right := r } = .next u
      ∧ u.seq = t.seq ∧ u.jL = t.jL ∧ u.jR = t.jR ∧ u.busy = t.busy ∧ u.done = t.done ∧ u.sched = t.sched
      ∧ u.statusWord = t.statusWord

/-- R24, R117, R118, R33. No access shows anything of the block: whatever the block buffer and the pipelines hold, a host
access gives the same response and leaves everything else the same. -/
def Obligations.BlockIsNeverObservable : Prop :=
  ∀ (s t : State) (r : BusReq) (i : Instr) (m : List Cell) (x : Vector Word 16) (p q : Quint), decodeBus r = .ok i →
    exec i s = .next t →
    ∃ u, exec i { s with blk := m, x := x, left := p, right := q } = .next u
      ∧ u = { t with blk := u.blk, x := x, left := p, right := q }

/-- R270, R143. After a completion no block byte is valid, so a COMPRESS issued next is refused with ERR_BLOCK and leaves
H and BUSY as the completion did. -/
def Obligations.CompletedBlockCannotBeReused : Prop :=
  ∀ s : State, ∃ t u, exec .combine s = .next t ∧ exec .compress t = .next u ∧ u.errBlock = true ∧ u.busy = false
    ∧ u.done = false ∧ u.seq = .idle ∧ SameH t u

/-! ## The platform and the host's side -/

/-- R51, R67. A host address reaches an engine's window exactly when it is that engine's ENGINE_BASE plus the offset;
ENGINE_BASE is a multiple of 256; no address reaches the windows of two engines; and a step of one engine leaves every
other engine's state as it was. A platform as a list of states, of which a step moves one, is the model's form (log entry
18). -/
def Obligations.WindowsAndEnginesAreSeparate : Prop :=
  (∀ (k addr : Nat) (off : BitVec 8), windowOffset (Config.engineBase k) addr = some off
      ↔ addr = Config.engineBase k + off.toNat)
    ∧ (∀ k, Config.engineBase k % 256 = 0)
    ∧ (∀ (j k addr : Nat), j ≠ k →
        windowOffset (Config.engineBase j) addr = none ∨ windowOffset (Config.engineBase k) addr = none)
    ∧ (∀ (k j : Nat) (engines after : List State), platformStep k engines = .next after → j ≠ k →
        after[j]? = engines[j]?)

/-- R67. Accesses to one engine neither order nor affect accesses to another: the steps of two engines leave the same
platform in either order. The platform's form is log entry 18's. -/
def Obligations.StepsOfTwoEnginesCommute : Prop :=
  ∀ (j k : Nat) (engines a b : List State), j ≠ k → platformStep j engines = .next a → platformStep k engines = .next b →
    ∃ c, platformStep k a = .next c ∧ platformStep j b = .next c

/-- R67, R243. After reset a platform holds N_ENGINES engines, each with its own number, and every step keeps the engines
and their numbers, so that no two engines share a window or a free value. Numbers and platform are the model's form (log
entry 18). -/
def Obligations.PlatformKeepsItsEngines : Prop :=
  (platformReset.length = Config.nEngines ∧ ∀ (k : Nat) (s : State), platformReset[k]? = some s → s.engine = k)
    ∧ ∀ (j : Nat) (engines after : List State), (∀ (k : Nat) (s : State), engines[k]? = some s → s.engine = k) →
      platformStep j engines = .next after →
      after.length = engines.length ∧ ∀ (k : Nat) (s : State), after[k]? = some s → s.engine = k

/-- R265. A padded message fills the fewest whole blocks that hold it, begins with the message and 0x80, goes on in zero
bytes, and ends in the bit length modulo 2^64, least significant byte first. It is the host's doing, not the engine's. -/
def Obligations.PaddingFillsWholeBlocks : Prop :=
  ∀ m : List Byte, (HostSide.pad m).length % 64 = 0
    ∧ (m ++ [0x80#8]) <+: HostSide.pad m
    ∧ (∀ k, m.length < k → k + 8 < (HostSide.pad m).length → (HostSide.pad m)[k]? = some 0x00#8)
    ∧ (∀ k, k < 8 → (HostSide.pad m)[(HostSide.pad m).length - 8 + k]? =
        some (BitVec.ofNat 8 (8 * m.length / 2 ^ (8 * k))))
    ∧ (HostSide.pad m).length = 64 * ((m.length + 9 + 63) / 64)
end

