-- ==== Sys2Proof/Laws/Decode.lean ====
section
/-! SUPPORT. The laws of the fields of encoded words, and what each decoder can answer. -/

namespace Sys2Proof

/-- R86: the fields of a USEQ word are what it was made of. -/
@[simp] theorem uopField_useqWord (u : BitVec 2) (j : BitVec 7) : uopField (useqWord u j) = u := by
  revert u j; decide

@[simp] theorem jField_useqWord (u : BitVec 2) (j : BitVec 7) : jField (useqWord u j) = j := by
  revert u j; decide

/-- R81: the bits of a descriptor: OFF, then SZ, then W. -/
theorem getLsbD_busWord (w : BitVec 1) (sz : BitVec 2) (off : BitVec 8) (k : Nat) :
    (busWord w sz off).getLsbD k =
      if k < 8 then off.getLsbD k else if k - 8 < 2 then sz.getLsbD (k - 8) else w.getLsbD (k - 8 - 2) :=
  (BitVec.getLsbD_append (x := w ++ sz) (y := off)).trans (by rw [BitVec.getLsbD_append])

/-- R81: the fields of a descriptor are what it was made of. -/
@[simp] theorem isWrite_busWord (w : BitVec 1) (sz : BitVec 2) (off : BitVec 8) (v : Word) :
    BusReq.isWrite ⟨busWord w sz off, v⟩ = w.getLsbD 0 := getLsbD_busWord w sz off 10

@[simp] theorem sizeCode_busWord (w : BitVec 1) (sz : BitVec 2) (off : BitVec 8) (v : Word) :
    BusReq.sizeCode ⟨busWord w sz off, v⟩ = sz := by
  refine BitVec.eq_of_getLsbD_eq fun i hi => ?_
  simp only [BusReq.sizeCode, BitVec.getLsbD_extractLsb', getLsbD_busWord, hi, decide_true, Bool.true_and]
  rw [if_neg (by omega), if_pos (by omega), Nat.add_sub_cancel_left]

@[simp] theorem offset_busWord (w : BitVec 1) (sz : BitVec 2) (off : BitVec 8) (v : Word) :
    BusReq.offset ⟨busWord w sz off, v⟩ = off := by
  refine BitVec.eq_of_getLsbD_eq fun i hi => ?_
  simp only [BusReq.offset, BitVec.getLsbD_extractLsb', getLsbD_busWord, hi, decide_true, Bool.true_and]
  rw [if_pos (by omega), Nat.zero_add]

/-- R88: what the descriptor of a block byte selects. -/
@[simp] theorem decodeTarget_byteOffset (n : BitVec 6) :
    decodeTarget 0b00#2 (byteOffset n) = some (.blkByte n) := by
  revert n; decide

/-- R88: what the descriptor of a block word selects. -/
@[simp] theorem decodeTarget_wordOffset (i : BitVec 4) :
    decodeTarget 0b10#2 (wordOffset i) = some (.blkWord i) := by
  revert i; decide

/-- R82: decoding the descriptor made of a direction, a size and an offset. -/
theorem decodeBus_busWord (w : BitVec 1) (sz : BitVec 2) (off : BitVec 8) (v : Word) :
    decodeBus ⟨busWord w sz off, v⟩ =
      match decodeTarget sz off with
      | none => .error .busError
      | some tgt => .ok (if w.getLsbD 0 then writeInstr v tgt else readInstr tgt) := by
  have h : BusReq.target ⟨busWord w sz off, v⟩ = decodeTarget sz off := by simp [BusReq.target]
  unfold decodeBus
  rw [h]
  cases decodeTarget sz off with
  | none => rfl
  | some tgt =>
    exact congrArg (fun b : Bool => Except.ok (if b = true then writeInstr v tgt else readInstr tgt))
      (isWrite_busWord w sz off v)

/-- R82: decoding a descriptor whose target is known; the hypothesis is a closed fact for each pattern of R88. -/
theorem decodeBus_of_target {t : BitVec 11} {v : Word} {tgt : Target}
    (h : decodeTarget (t.extractLsb' 8 2) (t.extractLsb' 0 8) = some tgt) :
    decodeBus ⟨t, v⟩ = .ok (if t.getLsbD 10 then writeInstr v tgt else readInstr tgt) := by
  unfold decodeBus BusReq.target BusReq.isWrite BusReq.sizeCode BusReq.offset; rw [h]

/-- R82: a transaction that decodes is the read or the write of its target. -/
theorem decodeBus_ok {r : BusReq} {i : Instr} (h : decodeBus r = .ok i) :
    ∃ tgt, r.target = some tgt ∧ i = if r.isWrite then writeInstr r.wdata tgt else readInstr tgt := by
  unfold decodeBus at h
  split at h
  · cases h
  · next tgt ht => exact ⟨tgt, ht, by cases h; rfl⟩

/-- R82: a transaction that does not decode has no target. -/
theorem decodeBus_error {r : BusReq} {e : Reject} (h : decodeBus r = .error e) :
    r.target = none ∧ e = .busError := by
  unfold decodeBus at h
  split at h
  · next ht => exact ⟨ht, by cases h; rfl⟩
  · cases h

/-- R85: a selector that decodes names one of the five functions. -/
theorem decodeFsel_ok {f : FselReq} {i : Instr} (h : decodeFsel f = .ok i) :
    i = .f0 f.b f.c f.d ∨ i = .f1 f.b f.c f.d ∨ i = .f2 f.b f.c f.d ∨ i = .f3 f.b f.c f.d ∨ i = .f4 f.b f.c f.d := by
  unfold decodeFsel at h
  split at h <;> cases h <;> simp

/-- R89: a selector that does not decode is reserved. -/
theorem decodeFsel_error {f : FselReq} {e : Reject} (h : decodeFsel f = .error e) :
    fselOf f.fs = none ∧ e = .reservedFsel := by
  unfold decodeFsel at h
  split at h <;> first | cases h; done | skip
  next hf => exact ⟨hf, by cases h; rfl⟩

/-- R86: what the four words of the sequencer decode to. -/
@[simp] theorem decodeUseq_decode : decodeUseq (useqWord 0b00#2 0#7) = .ok .decode := by decide

@[simp] theorem decodeUseq_combine : decodeUseq (useqWord 0b11#2 0#7) = .ok .combine := by decide

theorem decodeUseq_stepl {j : BitVec 7} (h : j.toNat < 80) : decodeUseq (useqWord 0b01#2 j) = .ok (.stepl j) := by
  simp [decodeUseq, stepInRange, h]

theorem decodeUseq_stepr {j : BitVec 7} (h : j.toNat < 80) : decodeUseq (useqWord 0b10#2 j) = .ok (.stepr j) := by
  simp [decodeUseq, stepInRange, h]

end Sys2Proof
end

