-- ==== Sys2Proof/Laws/Memory.lean ====
section
/-! SUPPORT. The laws of the block buffer's memory: a read after a write, and that a write keeps the canonical form. -/

namespace Sys2Proof.Machine.Memory

theorem read_push (n : Nat) (b : Byte) (m : List Host.Cell) (a : Nat) (h : n = a ∨ read m n = unlisted) :
    read (push n b m) a = if n = a then (if b = unlisted then read m n else b) else read m a := by
  unfold push
  by_cases hb : b = unlisted
  · rcases h with rfl | h <;> simp [hb]
    intro hn; rw [← hn]
  · simp [hb, read]

theorem wfFrom_mono : ∀ {m : List Host.Cell} {lo lo' : Nat}, lo' ≤ lo → wfFrom lo m = true → wfFrom lo' m = true
  | [], _, _, _, _ => rfl
  | (k, v) :: m, lo, lo', h, hw => by
    simp only [wfFrom, Bool.and_eq_true, decide_eq_true_eq] at hw ⊢
    exact ⟨⟨⟨by omega, hw.1.1.2⟩, hw.1.2⟩, hw.2⟩

/-- Below its first index a canonical list lists nothing. -/
theorem read_below : ∀ {m : List Host.Cell} {lo n : Nat}, wfFrom lo m = true → n < lo → read m n = unlisted
  | [], _, _, _, _ => rfl
  | (k, v) :: m, lo, n, hw, hn => by
    simp only [wfFrom, Bool.and_eq_true, decide_eq_true_eq] at hw
    rw [read, if_neg (by omega)]
    exact read_below hw.2 (by omega)

/-- A read after a write, at every index, for a canonical list. -/
theorem read_write_from : ∀ {m : List Host.Cell} {lo : Nat} (n : Nat) (b : Byte) (a : Nat), wfFrom lo m = true →
    read (write m n b) a = if n = a then b else read m a
  | [], _, n, b, a, _ => by
    simp only [write, push, read]
    by_cases hb : b = unlisted <;> simp [hb, read]
  | (k, v) :: m, lo, n, b, a, hw => by
    have hw' := hw
    simp only [wfFrom, Bool.and_eq_true, decide_eq_true_eq] at hw
    have hk : ∀ x, x ≤ k → read m x = unlisted := fun x hx => read_below hw.2 (by omega)
    unfold write push
    by_cases h1 : n < k
    · by_cases hb : b = unlisted
      · simp only [h1, hb, if_true]
        by_cases ha : n = a
        · subst ha
          rw [if_pos rfl, read, if_neg (by omega), hk n (by omega)]
        · rw [if_neg ha]
      · simp [h1, hb, read]
    · by_cases h2 : n = k
      · subst h2
        by_cases hb : b = unlisted
        · by_cases ha : n = a
          · subst ha; simp [hb, hk]
          · simp [hb, ha, read]
        · by_cases ha : n = a <;> simp [hb, ha, read]
      · simp only [h1, h2, if_false, read]
        rw [read_write_from n b a hw.2]
        by_cases ha : k = a
        · have : n ≠ a := by omega
          simp [ha, this]
        · simp [ha]

/-- A write keeps the canonical form. -/
theorem wfFrom_write : ∀ {m : List Host.Cell} {lo : Nat} (n : Nat) (b : Byte), lo ≤ n → n < 64 → wfFrom lo m = true →
    wfFrom lo (write m n b) = true
  | [], lo, n, b, hl, hn, _ => by
    unfold write push
    by_cases hb : b = unlisted <;> simp [hb, wfFrom, hl, hn]
  | (k, v) :: m, lo, n, b, hl, hn, hw => by
    have hw' := hw
    simp only [wfFrom, Bool.and_eq_true, decide_eq_true_eq] at hw
    unfold write push
    by_cases h1 : n < k
    · by_cases hb : b = unlisted
      · simpa [h1, hb] using hw'
      · simp only [h1, hb, if_true, if_false, wfFrom, Bool.and_eq_true, decide_eq_true_eq, Bool.not_eq_true',
          beq_eq_false_iff_ne]
        refine ⟨⟨⟨hl, hn⟩, hb⟩, ⟨⟨by omega, hw.1.1.2⟩, by simpa using hw.1.2⟩, hw.2⟩
    · by_cases h2 : n = k
      · subst h2
        by_cases hb : b = unlisted
        · simp only [hb, if_true, Nat.lt_irrefl, if_false]
          exact wfFrom_mono (by omega) hw.2
        · simp [hb, wfFrom, hl, hn, hw.2]
      · simp only [h1, h2, if_false, wfFrom, Bool.and_eq_true, decide_eq_true_eq]
        exact ⟨hw.1, wfFrom_write n b (by omega) hn hw.2⟩

/-- R24: a read of byte a after a write of byte n. -/
theorem read_write {m : List Host.Cell} (h : wf m = true) (n : Nat) (b : Byte) (a : Nat) :
    read (write m n b) a = if n = a then b else read m a := read_write_from n b a h

/-- A write of a byte of the block buffer keeps its canonical form. -/
theorem wf_write {m : List Host.Cell} {n : Nat} (h : wf m = true) (hn : n < 64) (b : Byte) :
    wf (write m n b) = true := wfFrom_write n b (Nat.zero_le n) hn h

/-- The empty memory of reset is canonical. -/
@[simp] theorem wf_nil : wf [] = true := rfl

/-- Two canonical memories that read the same byte at every index are the same data. -/
theorem eq_of_read_from : ∀ {m m' : List Host.Cell} {lo lo' : Nat}, wfFrom lo m = true → wfFrom lo' m' = true →
    (∀ n, read m n = read m' n) → m = m'
  | [], [], _, _, _, _, _ => rfl
  | [], (k, v) :: m', _, _, _, h', hr => by
    simp only [wfFrom, Bool.and_eq_true, Bool.not_eq_true', beq_eq_false_iff_ne] at h'
    exact absurd (by simpa [read] using (hr k).symm) h'.1.2
  | (k, v) :: m, [], _, _, h, _, hr => by
    simp only [wfFrom, Bool.and_eq_true, Bool.not_eq_true', beq_eq_false_iff_ne] at h
    exact absurd (by simpa [read] using hr k) h.1.2
  | (k, v) :: m, (k', v') :: m', lo, lo', h, h', hr => by
    simp only [wfFrom, Bool.and_eq_true, Bool.not_eq_true', beq_eq_false_iff_ne, decide_eq_true_eq] at h h'
    have hkk : k = k' := by
      rcases Nat.lt_trichotomy k k' with hlt | heq | hgt
      · have := hr k
        rw [read, if_pos rfl, read, if_neg (by omega), read_below h'.2 (by omega)] at this
        exact absurd this h.1.2
      · exact heq
      · have := hr k'
        rw [read, if_neg (by omega), read_below h.2 (by omega), read, if_pos rfl] at this
        exact absurd this.symm h'.1.2
    subst hkk
    have hv : v = v' := by simpa [read] using hr k
    subst hv
    congr 1
    refine eq_of_read_from h.2 h'.2 fun n => ?_
    by_cases hn : k = n
    · subst hn; rw [read_below h.2 (by omega), read_below h'.2 (by omega)]
    · simpa [read, hn] using hr n

/-- Equal memories are equal data: the canonical form is unique. -/
theorem eq_of_read {m m' : List Host.Cell} (h : wf m = true) (h' : wf m' = true) (hr : ∀ n, read m n = read m' n) :
    m = m' := eq_of_read_from h h' hr

end Sys2Proof.Machine.Memory
end

