-- ==== Sys2Proof/Laws/State.lean ====
section
/-! SUPPORT. What each state-changing operation of Machine/Ops.lean does to each field of the state, so that no proof
unfolds a record update. The composite operations are given by their parts at the end. -/

namespace Sys2Proof.Machine.State

variable (s : State)

/-! ### answer -/

@[simp] theorem answer_h (r : Word) (e : Bool) : (s.answer r e).h = s.h := rfl
@[simp] theorem answer_hvalid (r : Word) (e : Bool) : (s.answer r e).hvalid = s.hvalid := rfl
@[simp] theorem answer_blk (r : Word) (e : Bool) : (s.answer r e).blk = s.blk := rfl
@[simp] theorem answer_bvalid (r : Word) (e : Bool) : (s.answer r e).bvalid = s.bvalid := rfl
@[simp] theorem answer_busy (r : Word) (e : Bool) : (s.answer r e).busy = s.busy := rfl
@[simp] theorem answer_done (r : Word) (e : Bool) : (s.answer r e).done = s.done := rfl
@[simp] theorem answer_errBlock (r : Word) (e : Bool) : (s.answer r e).errBlock = s.errBlock := rfl
@[simp] theorem answer_errState (r : Word) (e : Bool) : (s.answer r e).errState = s.errState := rfl
@[simp] theorem answer_errCmd (r : Word) (e : Bool) : (s.answer r e).errCmd = s.errCmd := rfl
@[simp] theorem answer_errBus (r : Word) (e : Bool) : (s.answer r e).errBus = s.errBus := rfl
@[simp] theorem answer_x (r : Word) (e : Bool) : (s.answer r e).x = s.x := rfl
@[simp] theorem answer_left (r : Word) (e : Bool) : (s.answer r e).left = s.left := rfl
@[simp] theorem answer_right (r : Word) (e : Bool) : (s.answer r e).right = s.right := rfl
@[simp] theorem answer_seq (r : Word) (e : Bool) : (s.answer r e).seq = s.seq := rfl
@[simp] theorem answer_jL (r : Word) (e : Bool) : (s.answer r e).jL = s.jL := rfl
@[simp] theorem answer_jR (r : Word) (e : Bool) : (s.answer r e).jR = s.jR := rfl
@[simp] theorem answer_rst (r : Word) (e : Bool) : (s.answer r e).rst = s.rst := rfl
@[simp] theorem answer_req (r : Word) (e : Bool) : (s.answer r e).req = none := rfl
@[simp] theorem answer_rsp (r : Word) (e : Bool) : (s.answer r e).rsp = some ⟨r, e⟩ := rfl
@[simp] theorem answer_fsel (r : Word) (e : Bool) : (s.answer r e).fsel = s.fsel := rfl
@[simp] theorem answer_fout (r : Word) (e : Bool) : (s.answer r e).fout = s.fout := rfl
@[simp] theorem answer_host (r : Word) (e : Bool) : (s.answer r e).host = s.host := rfl
@[simp] theorem answer_engine (r : Word) (e : Bool) : (s.answer r e).engine = s.engine := rfl
@[simp] theorem answer_draws (r : Word) (e : Bool) : (s.answer r e).draws = s.draws := rfl
@[simp] theorem answer_sched (r : Word) (e : Bool) : (s.answer r e).sched = s.sched := rfl
@[simp] theorem answer_blkByte (r : Word) (e : Bool) (n : Nat) : (s.answer r e).blkByte n = s.blkByte n := rfl
@[simp] theorem answer_hasH (r : Word) (e : Bool) (i : Fin 5) : (s.answer r e).hasH i = s.hasH i := rfl
@[simp] theorem answer_hasByte (r : Word) (e : Bool) (n : Nat) : (s.answer r e).hasByte n = s.hasByte n := rfl
@[simp] theorem answer_stateOk (r : Word) (e : Bool) : (s.answer r e).stateOk = s.stateOk := rfl
@[simp] theorem answer_blkFull (r : Word) (e : Bool) : (s.answer r e).blkFull = s.blkFull := rfl
@[simp] theorem answer_errBit (r : Word) (e : Bool) (c : Cause) : (s.answer r e).errBit c = s.errBit c := by cases c <;> rfl

/-! ### raiseIf -/

@[simp] theorem raiseIf_h (b : Bool) (c : Cause) : (s.raiseIf b c).h = s.h := rfl
@[simp] theorem raiseIf_hvalid (b : Bool) (c : Cause) : (s.raiseIf b c).hvalid = s.hvalid := rfl
@[simp] theorem raiseIf_blk (b : Bool) (c : Cause) : (s.raiseIf b c).blk = s.blk := rfl
@[simp] theorem raiseIf_bvalid (b : Bool) (c : Cause) : (s.raiseIf b c).bvalid = s.bvalid := rfl
@[simp] theorem raiseIf_busy (b : Bool) (c : Cause) : (s.raiseIf b c).busy = s.busy := rfl
@[simp] theorem raiseIf_done (b : Bool) (c : Cause) : (s.raiseIf b c).done = s.done := rfl
@[simp] theorem raiseIf_errBlock (b : Bool) (c : Cause) : (s.raiseIf b c).errBlock = (s.errBlock || (b && decide (c = .block))) := rfl
@[simp] theorem raiseIf_errState (b : Bool) (c : Cause) : (s.raiseIf b c).errState = (s.errState || (b && decide (c = .state))) := rfl
@[simp] theorem raiseIf_errCmd (b : Bool) (c : Cause) : (s.raiseIf b c).errCmd = (s.errCmd || (b && decide (c = .cmd))) := rfl
@[simp] theorem raiseIf_errBus (b : Bool) (c : Cause) : (s.raiseIf b c).errBus = (s.errBus || (b && decide (c = .bus))) := rfl
@[simp] theorem raiseIf_x (b : Bool) (c : Cause) : (s.raiseIf b c).x = s.x := rfl
@[simp] theorem raiseIf_left (b : Bool) (c : Cause) : (s.raiseIf b c).left = s.left := rfl
@[simp] theorem raiseIf_right (b : Bool) (c : Cause) : (s.raiseIf b c).right = s.right := rfl
@[simp] theorem raiseIf_seq (b : Bool) (c : Cause) : (s.raiseIf b c).seq = s.seq := rfl
@[simp] theorem raiseIf_jL (b : Bool) (c : Cause) : (s.raiseIf b c).jL = s.jL := rfl
@[simp] theorem raiseIf_jR (b : Bool) (c : Cause) : (s.raiseIf b c).jR = s.jR := rfl
@[simp] theorem raiseIf_rst (b : Bool) (c : Cause) : (s.raiseIf b c).rst = s.rst := rfl
@[simp] theorem raiseIf_req (b : Bool) (c : Cause) : (s.raiseIf b c).req = s.req := rfl
@[simp] theorem raiseIf_rsp (b : Bool) (c : Cause) : (s.raiseIf b c).rsp = s.rsp := rfl
@[simp] theorem raiseIf_fsel (b : Bool) (c : Cause) : (s.raiseIf b c).fsel = s.fsel := rfl
@[simp] theorem raiseIf_fout (b : Bool) (c : Cause) : (s.raiseIf b c).fout = s.fout := rfl
@[simp] theorem raiseIf_host (b : Bool) (c : Cause) : (s.raiseIf b c).host = s.host := rfl
@[simp] theorem raiseIf_engine (b : Bool) (c : Cause) : (s.raiseIf b c).engine = s.engine := rfl
@[simp] theorem raiseIf_draws (b : Bool) (c : Cause) : (s.raiseIf b c).draws = s.draws := rfl
@[simp] theorem raiseIf_sched (b : Bool) (c : Cause) : (s.raiseIf b c).sched = s.sched := rfl
@[simp] theorem raiseIf_blkByte (b : Bool) (c : Cause) (n : Nat) : (s.raiseIf b c).blkByte n = s.blkByte n := rfl
@[simp] theorem raiseIf_hasH (b : Bool) (c : Cause) (i : Fin 5) : (s.raiseIf b c).hasH i = s.hasH i := rfl
@[simp] theorem raiseIf_hasByte (b : Bool) (c : Cause) (n : Nat) : (s.raiseIf b c).hasByte n = s.hasByte n := rfl
@[simp] theorem raiseIf_stateOk (b : Bool) (c : Cause) : (s.raiseIf b c).stateOk = s.stateOk := rfl
@[simp] theorem raiseIf_blkFull (b : Bool) (c : Cause) : (s.raiseIf b c).blkFull = s.blkFull := rfl

/-! ### writeH -/

@[simp] theorem writeH_h (k : Fin 5) (v : Word) : (s.writeH k v).h = s.h.set k v := rfl
@[simp] theorem writeH_hvalid (k : Fin 5) (v : Word) : (s.writeH k v).hvalid = s.hvalid ||| (1#5 <<< k.val) := rfl
@[simp] theorem writeH_blk (k : Fin 5) (v : Word) : (s.writeH k v).blk = s.blk := rfl
@[simp] theorem writeH_bvalid (k : Fin 5) (v : Word) : (s.writeH k v).bvalid = s.bvalid := rfl
@[simp] theorem writeH_busy (k : Fin 5) (v : Word) : (s.writeH k v).busy = s.busy := rfl
@[simp] theorem writeH_done (k : Fin 5) (v : Word) : (s.writeH k v).done = s.done := rfl
@[simp] theorem writeH_errBlock (k : Fin 5) (v : Word) : (s.writeH k v).errBlock = s.errBlock := rfl
@[simp] theorem writeH_errState (k : Fin 5) (v : Word) : (s.writeH k v).errState = s.errState := rfl
@[simp] theorem writeH_errCmd (k : Fin 5) (v : Word) : (s.writeH k v).errCmd = s.errCmd := rfl
@[simp] theorem writeH_errBus (k : Fin 5) (v : Word) : (s.writeH k v).errBus = s.errBus := rfl
@[simp] theorem writeH_x (k : Fin 5) (v : Word) : (s.writeH k v).x = s.x := rfl
@[simp] theorem writeH_left (k : Fin 5) (v : Word) : (s.writeH k v).left = s.left := rfl
@[simp] theorem writeH_right (k : Fin 5) (v : Word) : (s.writeH k v).right = s.right := rfl
@[simp] theorem writeH_seq (k : Fin 5) (v : Word) : (s.writeH k v).seq = s.seq := rfl
@[simp] theorem writeH_jL (k : Fin 5) (v : Word) : (s.writeH k v).jL = s.jL := rfl
@[simp] theorem writeH_jR (k : Fin 5) (v : Word) : (s.writeH k v).jR = s.jR := rfl
@[simp] theorem writeH_rst (k : Fin 5) (v : Word) : (s.writeH k v).rst = s.rst := rfl
@[simp] theorem writeH_req (k : Fin 5) (v : Word) : (s.writeH k v).req = s.req := rfl
@[simp] theorem writeH_rsp (k : Fin 5) (v : Word) : (s.writeH k v).rsp = s.rsp := rfl
@[simp] theorem writeH_fsel (k : Fin 5) (v : Word) : (s.writeH k v).fsel = s.fsel := rfl
@[simp] theorem writeH_fout (k : Fin 5) (v : Word) : (s.writeH k v).fout = s.fout := rfl
@[simp] theorem writeH_host (k : Fin 5) (v : Word) : (s.writeH k v).host = s.host := rfl
@[simp] theorem writeH_engine (k : Fin 5) (v : Word) : (s.writeH k v).engine = s.engine := rfl
@[simp] theorem writeH_draws (k : Fin 5) (v : Word) : (s.writeH k v).draws = s.draws := rfl
@[simp] theorem writeH_sched (k : Fin 5) (v : Word) : (s.writeH k v).sched = s.sched := rfl
@[simp] theorem writeH_blkByte (k : Fin 5) (v : Word) (n : Nat) : (s.writeH k v).blkByte n = s.blkByte n := rfl
@[simp] theorem writeH_hasByte (k : Fin 5) (v : Word) (n : Nat) : (s.writeH k v).hasByte n = s.hasByte n := rfl
@[simp] theorem writeH_blkFull (k : Fin 5) (v : Word) : (s.writeH k v).blkFull = s.blkFull := rfl
@[simp] theorem writeH_errBit (k : Fin 5) (v : Word) (c : Cause) : (s.writeH k v).errBit c = s.errBit c := by cases c <;> rfl

/-! ### writeByte -/

@[simp] theorem writeByte_h (k : Nat) (v : Byte) : (s.writeByte k v).h = s.h := rfl
@[simp] theorem writeByte_hvalid (k : Nat) (v : Byte) : (s.writeByte k v).hvalid = s.hvalid := rfl
@[simp] theorem writeByte_blk (k : Nat) (v : Byte) : (s.writeByte k v).blk = Memory.write s.blk k v := rfl
@[simp] theorem writeByte_bvalid (k : Nat) (v : Byte) : (s.writeByte k v).bvalid = s.bvalid ||| (1#64 <<< k) := rfl
@[simp] theorem writeByte_busy (k : Nat) (v : Byte) : (s.writeByte k v).busy = s.busy := rfl
@[simp] theorem writeByte_done (k : Nat) (v : Byte) : (s.writeByte k v).done = s.done := rfl
@[simp] theorem writeByte_errBlock (k : Nat) (v : Byte) : (s.writeByte k v).errBlock = s.errBlock := rfl
@[simp] theorem writeByte_errState (k : Nat) (v : Byte) : (s.writeByte k v).errState = s.errState := rfl
@[simp] theorem writeByte_errCmd (k : Nat) (v : Byte) : (s.writeByte k v).errCmd = s.errCmd := rfl
@[simp] theorem writeByte_errBus (k : Nat) (v : Byte) : (s.writeByte k v).errBus = s.errBus := rfl
@[simp] theorem writeByte_x (k : Nat) (v : Byte) : (s.writeByte k v).x = s.x := rfl
@[simp] theorem writeByte_left (k : Nat) (v : Byte) : (s.writeByte k v).left = s.left := rfl
@[simp] theorem writeByte_right (k : Nat) (v : Byte) : (s.writeByte k v).right = s.right := rfl
@[simp] theorem writeByte_seq (k : Nat) (v : Byte) : (s.writeByte k v).seq = s.seq := rfl
@[simp] theorem writeByte_jL (k : Nat) (v : Byte) : (s.writeByte k v).jL = s.jL := rfl
@[simp] theorem writeByte_jR (k : Nat) (v : Byte) : (s.writeByte k v).jR = s.jR := rfl
@[simp] theorem writeByte_rst (k : Nat) (v : Byte) : (s.writeByte k v).rst = s.rst := rfl
@[simp] theorem writeByte_req (k : Nat) (v : Byte) : (s.writeByte k v).req = s.req := rfl
@[simp] theorem writeByte_rsp (k : Nat) (v : Byte) : (s.writeByte k v).rsp = s.rsp := rfl
@[simp] theorem writeByte_fsel (k : Nat) (v : Byte) : (s.writeByte k v).fsel = s.fsel := rfl
@[simp] theorem writeByte_fout (k : Nat) (v : Byte) : (s.writeByte k v).fout = s.fout := rfl
@[simp] theorem writeByte_host (k : Nat) (v : Byte) : (s.writeByte k v).host = s.host := rfl
@[simp] theorem writeByte_engine (k : Nat) (v : Byte) : (s.writeByte k v).engine = s.engine := rfl
@[simp] theorem writeByte_draws (k : Nat) (v : Byte) : (s.writeByte k v).draws = s.draws := rfl
@[simp] theorem writeByte_sched (k : Nat) (v : Byte) : (s.writeByte k v).sched = s.sched := rfl
@[simp] theorem writeByte_hasH (k : Nat) (v : Byte) (i : Fin 5) : (s.writeByte k v).hasH i = s.hasH i := rfl
@[simp] theorem writeByte_stateOk (k : Nat) (v : Byte) : (s.writeByte k v).stateOk = s.stateOk := rfl
@[simp] theorem writeByte_errBit (k : Nat) (v : Byte) (c : Cause) : (s.writeByte k v).errBit c = s.errBit c := by cases c <;> rfl

/-! ### issueCompress -/

@[simp] theorem issueCompress_h : (s.issueCompress).h = s.h := rfl
@[simp] theorem issueCompress_hvalid : (s.issueCompress).hvalid = s.hvalid := rfl
@[simp] theorem issueCompress_blk : (s.issueCompress).blk = s.blk := rfl
@[simp] theorem issueCompress_bvalid : (s.issueCompress).bvalid = s.bvalid := rfl
@[simp] theorem issueCompress_busy : (s.issueCompress).busy = (s.busy || s.inputsOk) := rfl
@[simp] theorem issueCompress_done : (s.issueCompress).done = false := rfl
@[simp] theorem issueCompress_errBlock : (s.issueCompress).errBlock = s.checkInputs.errBlock := rfl
@[simp] theorem issueCompress_errState : (s.issueCompress).errState = s.checkInputs.errState := rfl
@[simp] theorem issueCompress_errCmd : (s.issueCompress).errCmd = s.checkInputs.errCmd := rfl
@[simp] theorem issueCompress_errBus : (s.issueCompress).errBus = s.checkInputs.errBus := rfl
@[simp] theorem issueCompress_x : (s.issueCompress).x = s.x := rfl
@[simp] theorem issueCompress_left : (s.issueCompress).left = s.left := rfl
@[simp] theorem issueCompress_right : (s.issueCompress).right = s.right := rfl
@[simp] theorem issueCompress_seq : (s.issueCompress).seq = (if s.inputsOk then .decode else s.seq) := rfl
@[simp] theorem issueCompress_jL : (s.issueCompress).jL = s.jL := rfl
@[simp] theorem issueCompress_jR : (s.issueCompress).jR = s.jR := rfl
@[simp] theorem issueCompress_rst : (s.issueCompress).rst = s.rst := rfl
@[simp] theorem issueCompress_req : (s.issueCompress).req = s.req := rfl
@[simp] theorem issueCompress_rsp : (s.issueCompress).rsp = s.rsp := rfl
@[simp] theorem issueCompress_fsel : (s.issueCompress).fsel = s.fsel := rfl
@[simp] theorem issueCompress_fout : (s.issueCompress).fout = s.fout := rfl
@[simp] theorem issueCompress_host : (s.issueCompress).host = s.host := rfl
@[simp] theorem issueCompress_engine : (s.issueCompress).engine = s.engine := rfl
@[simp] theorem issueCompress_draws : (s.issueCompress).draws = s.draws := rfl
@[simp] theorem issueCompress_sched : (s.issueCompress).sched = s.sched := rfl
@[simp] theorem issueCompress_blkByte (n : Nat) : (s.issueCompress).blkByte n = s.blkByte n := rfl
@[simp] theorem issueCompress_hasH (i : Fin 5) : (s.issueCompress).hasH i = s.hasH i := rfl
@[simp] theorem issueCompress_hasByte (n : Nat) : (s.issueCompress).hasByte n = s.hasByte n := rfl
@[simp] theorem issueCompress_stateOk : (s.issueCompress).stateOk = s.stateOk := rfl
@[simp] theorem issueCompress_blkFull : (s.issueCompress).blkFull = s.blkFull := rfl

/-! ### loadPipelines -/

@[simp] theorem loadPipelines_h : (s.loadPipelines).h = s.h := rfl
@[simp] theorem loadPipelines_hvalid : (s.loadPipelines).hvalid = s.hvalid := rfl
@[simp] theorem loadPipelines_blk : (s.loadPipelines).blk = s.blk := rfl
@[simp] theorem loadPipelines_bvalid : (s.loadPipelines).bvalid = s.bvalid := rfl
@[simp] theorem loadPipelines_busy : (s.loadPipelines).busy = s.busy := rfl
@[simp] theorem loadPipelines_done : (s.loadPipelines).done = s.done := rfl
@[simp] theorem loadPipelines_errBlock : (s.loadPipelines).errBlock = s.errBlock := rfl
@[simp] theorem loadPipelines_errState : (s.loadPipelines).errState = s.errState := rfl
@[simp] theorem loadPipelines_errCmd : (s.loadPipelines).errCmd = s.errCmd := rfl
@[simp] theorem loadPipelines_errBus : (s.loadPipelines).errBus = s.errBus := rfl
@[simp] theorem loadPipelines_x : (s.loadPipelines).x = schedule s.blkByte := rfl
@[simp] theorem loadPipelines_left : (s.loadPipelines).left = s.h.toQuint := rfl
@[simp] theorem loadPipelines_right : (s.loadPipelines).right = s.h.toQuint := rfl
@[simp] theorem loadPipelines_seq : (s.loadPipelines).seq = s.seq := rfl
@[simp] theorem loadPipelines_jL : (s.loadPipelines).jL = 0#7 := rfl
@[simp] theorem loadPipelines_jR : (s.loadPipelines).jR = 0#7 := rfl
@[simp] theorem loadPipelines_rst : (s.loadPipelines).rst = s.rst := rfl
@[simp] theorem loadPipelines_req : (s.loadPipelines).req = s.req := rfl
@[simp] theorem loadPipelines_rsp : (s.loadPipelines).rsp = s.rsp := rfl
@[simp] theorem loadPipelines_fsel : (s.loadPipelines).fsel = s.fsel := rfl
@[simp] theorem loadPipelines_fout : (s.loadPipelines).fout = s.fout := rfl
@[simp] theorem loadPipelines_host : (s.loadPipelines).host = s.host := rfl
@[simp] theorem loadPipelines_engine : (s.loadPipelines).engine = s.engine := rfl
@[simp] theorem loadPipelines_draws : (s.loadPipelines).draws = s.draws := rfl
@[simp] theorem loadPipelines_sched : (s.loadPipelines).sched = s.sched := rfl
@[simp] theorem loadPipelines_blkByte (n : Nat) : (s.loadPipelines).blkByte n = s.blkByte n := rfl
@[simp] theorem loadPipelines_hasH (i : Fin 5) : (s.loadPipelines).hasH i = s.hasH i := rfl
@[simp] theorem loadPipelines_hasByte (n : Nat) : (s.loadPipelines).hasByte n = s.hasByte n := rfl
@[simp] theorem loadPipelines_stateOk : (s.loadPipelines).stateOk = s.stateOk := rfl
@[simp] theorem loadPipelines_blkFull : (s.loadPipelines).blkFull = s.blkFull := rfl
@[simp] theorem loadPipelines_errBit (c : Cause) : (s.loadPipelines).errBit c = s.errBit c := by cases c <;> rfl

/-! ### stepLeft -/

@[simp] theorem stepLeft_h (j : Nat) : (s.stepLeft j).h = s.h := rfl
@[simp] theorem stepLeft_hvalid (j : Nat) : (s.stepLeft j).hvalid = s.hvalid := rfl
@[simp] theorem stepLeft_blk (j : Nat) : (s.stepLeft j).blk = s.blk := rfl
@[simp] theorem stepLeft_bvalid (j : Nat) : (s.stepLeft j).bvalid = s.bvalid := rfl
@[simp] theorem stepLeft_busy (j : Nat) : (s.stepLeft j).busy = s.busy := rfl
@[simp] theorem stepLeft_done (j : Nat) : (s.stepLeft j).done = s.done := rfl
@[simp] theorem stepLeft_errBlock (j : Nat) : (s.stepLeft j).errBlock = s.errBlock := rfl
@[simp] theorem stepLeft_errState (j : Nat) : (s.stepLeft j).errState = s.errState := rfl
@[simp] theorem stepLeft_errCmd (j : Nat) : (s.stepLeft j).errCmd = s.errCmd := rfl
@[simp] theorem stepLeft_errBus (j : Nat) : (s.stepLeft j).errBus = s.errBus := rfl
@[simp] theorem stepLeft_x (j : Nat) : (s.stepLeft j).x = s.x := rfl
@[simp] theorem stepLeft_left (j : Nat) : (s.stepLeft j).left = pipeStep .left j s.x s.left := rfl
@[simp] theorem stepLeft_right (j : Nat) : (s.stepLeft j).right = s.right := rfl
@[simp] theorem stepLeft_seq (j : Nat) : (s.stepLeft j).seq = s.seq := rfl
@[simp] theorem stepLeft_jL (j : Nat) : (s.stepLeft j).jL = s.jL + 1#7 := rfl
@[simp] theorem stepLeft_jR (j : Nat) : (s.stepLeft j).jR = s.jR := rfl
@[simp] theorem stepLeft_rst (j : Nat) : (s.stepLeft j).rst = s.rst := rfl
@[simp] theorem stepLeft_req (j : Nat) : (s.stepLeft j).req = s.req := rfl
@[simp] theorem stepLeft_rsp (j : Nat) : (s.stepLeft j).rsp = s.rsp := rfl
@[simp] theorem stepLeft_fsel (j : Nat) : (s.stepLeft j).fsel = s.fsel := rfl
@[simp] theorem stepLeft_fout (j : Nat) : (s.stepLeft j).fout = s.fout := rfl
@[simp] theorem stepLeft_host (j : Nat) : (s.stepLeft j).host = s.host := rfl
@[simp] theorem stepLeft_engine (j : Nat) : (s.stepLeft j).engine = s.engine := rfl
@[simp] theorem stepLeft_draws (j : Nat) : (s.stepLeft j).draws = s.draws := rfl
@[simp] theorem stepLeft_sched (j : Nat) : (s.stepLeft j).sched = s.sched := rfl
@[simp] theorem stepLeft_blkByte (j : Nat) (n : Nat) : (s.stepLeft j).blkByte n = s.blkByte n := rfl
@[simp] theorem stepLeft_hasH (j : Nat) (i : Fin 5) : (s.stepLeft j).hasH i = s.hasH i := rfl
@[simp] theorem stepLeft_hasByte (j : Nat) (n : Nat) : (s.stepLeft j).hasByte n = s.hasByte n := rfl
@[simp] theorem stepLeft_stateOk (j : Nat) : (s.stepLeft j).stateOk = s.stateOk := rfl
@[simp] theorem stepLeft_blkFull (j : Nat) : (s.stepLeft j).blkFull = s.blkFull := rfl
@[simp] theorem stepLeft_errBit (j : Nat) (c : Cause) : (s.stepLeft j).errBit c = s.errBit c := by cases c <;> rfl

/-! ### stepRight -/

@[simp] theorem stepRight_h (j : Nat) : (s.stepRight j).h = s.h := rfl
@[simp] theorem stepRight_hvalid (j : Nat) : (s.stepRight j).hvalid = s.hvalid := rfl
@[simp] theorem stepRight_blk (j : Nat) : (s.stepRight j).blk = s.blk := rfl
@[simp] theorem stepRight_bvalid (j : Nat) : (s.stepRight j).bvalid = s.bvalid := rfl
@[simp] theorem stepRight_busy (j : Nat) : (s.stepRight j).busy = s.busy := rfl
@[simp] theorem stepRight_done (j : Nat) : (s.stepRight j).done = s.done := rfl
@[simp] theorem stepRight_errBlock (j : Nat) : (s.stepRight j).errBlock = s.errBlock := rfl
@[simp] theorem stepRight_errState (j : Nat) : (s.stepRight j).errState = s.errState := rfl
@[simp] theorem stepRight_errCmd (j : Nat) : (s.stepRight j).errCmd = s.errCmd := rfl
@[simp] theorem stepRight_errBus (j : Nat) : (s.stepRight j).errBus = s.errBus := rfl
@[simp] theorem stepRight_x (j : Nat) : (s.stepRight j).x = s.x := rfl
@[simp] theorem stepRight_left (j : Nat) : (s.stepRight j).left = s.left := rfl
@[simp] theorem stepRight_right (j : Nat) : (s.stepRight j).right = pipeStep .right j s.x s.right := rfl
@[simp] theorem stepRight_seq (j : Nat) : (s.stepRight j).seq = s.seq := rfl
@[simp] theorem stepRight_jL (j : Nat) : (s.stepRight j).jL = s.jL := rfl
@[simp] theorem stepRight_jR (j : Nat) : (s.stepRight j).jR = s.jR + 1#7 := rfl
@[simp] theorem stepRight_rst (j : Nat) : (s.stepRight j).rst = s.rst := rfl
@[simp] theorem stepRight_req (j : Nat) : (s.stepRight j).req = s.req := rfl
@[simp] theorem stepRight_rsp (j : Nat) : (s.stepRight j).rsp = s.rsp := rfl
@[simp] theorem stepRight_fsel (j : Nat) : (s.stepRight j).fsel = s.fsel := rfl
@[simp] theorem stepRight_fout (j : Nat) : (s.stepRight j).fout = s.fout := rfl
@[simp] theorem stepRight_host (j : Nat) : (s.stepRight j).host = s.host := rfl
@[simp] theorem stepRight_engine (j : Nat) : (s.stepRight j).engine = s.engine := rfl
@[simp] theorem stepRight_draws (j : Nat) : (s.stepRight j).draws = s.draws := rfl
@[simp] theorem stepRight_sched (j : Nat) : (s.stepRight j).sched = s.sched := rfl
@[simp] theorem stepRight_blkByte (j : Nat) (n : Nat) : (s.stepRight j).blkByte n = s.blkByte n := rfl
@[simp] theorem stepRight_hasH (j : Nat) (i : Fin 5) : (s.stepRight j).hasH i = s.hasH i := rfl
@[simp] theorem stepRight_hasByte (j : Nat) (n : Nat) : (s.stepRight j).hasByte n = s.hasByte n := rfl
@[simp] theorem stepRight_stateOk (j : Nat) : (s.stepRight j).stateOk = s.stateOk := rfl
@[simp] theorem stepRight_blkFull (j : Nat) : (s.stepRight j).blkFull = s.blkFull := rfl
@[simp] theorem stepRight_errBit (j : Nat) (c : Cause) : (s.stepRight j).errBit c = s.errBit c := by cases c <;> rfl

/-! ### completeWith -/

@[simp] theorem completeWith_h (w : HFile) : (s.completeWith w).h = w := rfl
@[simp] theorem completeWith_hvalid (w : HFile) : (s.completeWith w).hvalid = BitVec.allOnes 5 := rfl
@[simp] theorem completeWith_blk (w : HFile) : (s.completeWith w).blk = s.blk := rfl
@[simp] theorem completeWith_bvalid (w : HFile) : (s.completeWith w).bvalid = 0#64 := rfl
@[simp] theorem completeWith_busy (w : HFile) : (s.completeWith w).busy = false := rfl
@[simp] theorem completeWith_done (w : HFile) : (s.completeWith w).done = true := rfl
@[simp] theorem completeWith_errBlock (w : HFile) : (s.completeWith w).errBlock = s.errBlock := rfl
@[simp] theorem completeWith_errState (w : HFile) : (s.completeWith w).errState = s.errState := rfl
@[simp] theorem completeWith_errCmd (w : HFile) : (s.completeWith w).errCmd = s.errCmd := rfl
@[simp] theorem completeWith_errBus (w : HFile) : (s.completeWith w).errBus = s.errBus := rfl
@[simp] theorem completeWith_x (w : HFile) : (s.completeWith w).x = s.x := rfl
@[simp] theorem completeWith_left (w : HFile) : (s.completeWith w).left = s.left := rfl
@[simp] theorem completeWith_right (w : HFile) : (s.completeWith w).right = s.right := rfl
@[simp] theorem completeWith_seq (w : HFile) : (s.completeWith w).seq = .idle := rfl
@[simp] theorem completeWith_jL (w : HFile) : (s.completeWith w).jL = s.jL := rfl
@[simp] theorem completeWith_jR (w : HFile) : (s.completeWith w).jR = s.jR := rfl
@[simp] theorem completeWith_rst (w : HFile) : (s.completeWith w).rst = s.rst := rfl
@[simp] theorem completeWith_req (w : HFile) : (s.completeWith w).req = s.req := rfl
@[simp] theorem completeWith_rsp (w : HFile) : (s.completeWith w).rsp = s.rsp := rfl
@[simp] theorem completeWith_fsel (w : HFile) : (s.completeWith w).fsel = s.fsel := rfl
@[simp] theorem completeWith_fout (w : HFile) : (s.completeWith w).fout = s.fout := rfl
@[simp] theorem completeWith_host (w : HFile) : (s.completeWith w).host = s.host := rfl
@[simp] theorem completeWith_engine (w : HFile) : (s.completeWith w).engine = s.engine := rfl
@[simp] theorem completeWith_draws (w : HFile) : (s.completeWith w).draws = s.draws := rfl
@[simp] theorem completeWith_sched (w : HFile) : (s.completeWith w).sched = s.sched := rfl
@[simp] theorem completeWith_blkByte (w : HFile) (n : Nat) : (s.completeWith w).blkByte n = s.blkByte n := rfl
@[simp] theorem completeWith_errBit (w : HFile) (c : Cause) : (s.completeWith w).errBit c = s.errBit c := by cases c <;> rfl

/-! ### enter -/

@[simp] theorem enter_h (p : Phase) : (s.enter p).h = s.h := rfl
@[simp] theorem enter_hvalid (p : Phase) : (s.enter p).hvalid = s.hvalid := rfl
@[simp] theorem enter_blk (p : Phase) : (s.enter p).blk = s.blk := rfl
@[simp] theorem enter_bvalid (p : Phase) : (s.enter p).bvalid = s.bvalid := rfl
@[simp] theorem enter_busy (p : Phase) : (s.enter p).busy = s.busy := rfl
@[simp] theorem enter_done (p : Phase) : (s.enter p).done = s.done := rfl
@[simp] theorem enter_errBlock (p : Phase) : (s.enter p).errBlock = s.errBlock := rfl
@[simp] theorem enter_errState (p : Phase) : (s.enter p).errState = s.errState := rfl
@[simp] theorem enter_errCmd (p : Phase) : (s.enter p).errCmd = s.errCmd := rfl
@[simp] theorem enter_errBus (p : Phase) : (s.enter p).errBus = s.errBus := rfl
@[simp] theorem enter_x (p : Phase) : (s.enter p).x = s.x := rfl
@[simp] theorem enter_left (p : Phase) : (s.enter p).left = s.left := rfl
@[simp] theorem enter_right (p : Phase) : (s.enter p).right = s.right := rfl
@[simp] theorem enter_seq (p : Phase) : (s.enter p).seq = p := rfl
@[simp] theorem enter_jL (p : Phase) : (s.enter p).jL = s.jL := rfl
@[simp] theorem enter_jR (p : Phase) : (s.enter p).jR = s.jR := rfl
@[simp] theorem enter_rst (p : Phase) : (s.enter p).rst = s.rst := rfl
@[simp] theorem enter_req (p : Phase) : (s.enter p).req = s.req := rfl
@[simp] theorem enter_rsp (p : Phase) : (s.enter p).rsp = s.rsp := rfl
@[simp] theorem enter_fsel (p : Phase) : (s.enter p).fsel = s.fsel := rfl
@[simp] theorem enter_fout (p : Phase) : (s.enter p).fout = s.fout := rfl
@[simp] theorem enter_host (p : Phase) : (s.enter p).host = s.host := rfl
@[simp] theorem enter_engine (p : Phase) : (s.enter p).engine = s.engine := rfl
@[simp] theorem enter_draws (p : Phase) : (s.enter p).draws = s.draws := rfl
@[simp] theorem enter_sched (p : Phase) : (s.enter p).sched = s.sched + 1 := rfl
@[simp] theorem enter_blkByte (p : Phase) (n : Nat) : (s.enter p).blkByte n = s.blkByte n := rfl
@[simp] theorem enter_hasH (p : Phase) (i : Fin 5) : (s.enter p).hasH i = s.hasH i := rfl
@[simp] theorem enter_hasByte (p : Phase) (n : Nat) : (s.enter p).hasByte n = s.hasByte n := rfl
@[simp] theorem enter_stateOk (p : Phase) : (s.enter p).stateOk = s.stateOk := rfl
@[simp] theorem enter_blkFull (p : Phase) : (s.enter p).blkFull = s.blkFull := rfl
@[simp] theorem enter_errBit (p : Phase) (c : Cause) : (s.enter p).errBit c = s.errBit c := by cases c <;> rfl

/-! ### evalRound -/

@[simp] theorem evalRound_h (w : Word) : (s.evalRound w).h = s.h := rfl
@[simp] theorem evalRound_hvalid (w : Word) : (s.evalRound w).hvalid = s.hvalid := rfl
@[simp] theorem evalRound_blk (w : Word) : (s.evalRound w).blk = s.blk := rfl
@[simp] theorem evalRound_bvalid (w : Word) : (s.evalRound w).bvalid = s.bvalid := rfl
@[simp] theorem evalRound_busy (w : Word) : (s.evalRound w).busy = s.busy := rfl
@[simp] theorem evalRound_done (w : Word) : (s.evalRound w).done = s.done := rfl
@[simp] theorem evalRound_errBlock (w : Word) : (s.evalRound w).errBlock = s.errBlock := rfl
@[simp] theorem evalRound_errState (w : Word) : (s.evalRound w).errState = s.errState := rfl
@[simp] theorem evalRound_errCmd (w : Word) : (s.evalRound w).errCmd = s.errCmd := rfl
@[simp] theorem evalRound_errBus (w : Word) : (s.evalRound w).errBus = s.errBus := rfl
@[simp] theorem evalRound_x (w : Word) : (s.evalRound w).x = s.x := rfl
@[simp] theorem evalRound_left (w : Word) : (s.evalRound w).left = s.left := rfl
@[simp] theorem evalRound_right (w : Word) : (s.evalRound w).right = s.right := rfl
@[simp] theorem evalRound_seq (w : Word) : (s.evalRound w).seq = s.seq := rfl
@[simp] theorem evalRound_jL (w : Word) : (s.evalRound w).jL = s.jL := rfl
@[simp] theorem evalRound_jR (w : Word) : (s.evalRound w).jR = s.jR := rfl
@[simp] theorem evalRound_rst (w : Word) : (s.evalRound w).rst = s.rst := rfl
@[simp] theorem evalRound_req (w : Word) : (s.evalRound w).req = s.req := rfl
@[simp] theorem evalRound_rsp (w : Word) : (s.evalRound w).rsp = s.rsp := rfl
@[simp] theorem evalRound_fsel (w : Word) : (s.evalRound w).fsel = none := rfl
@[simp] theorem evalRound_fout (w : Word) : (s.evalRound w).fout = w := rfl
@[simp] theorem evalRound_host (w : Word) : (s.evalRound w).host = s.host := rfl
@[simp] theorem evalRound_engine (w : Word) : (s.evalRound w).engine = s.engine := rfl
@[simp] theorem evalRound_draws (w : Word) : (s.evalRound w).draws = s.draws := rfl
@[simp] theorem evalRound_sched (w : Word) : (s.evalRound w).sched = s.sched := rfl
@[simp] theorem evalRound_blkByte (w : Word) (n : Nat) : (s.evalRound w).blkByte n = s.blkByte n := rfl
@[simp] theorem evalRound_hasH (w : Word) (i : Fin 5) : (s.evalRound w).hasH i = s.hasH i := rfl
@[simp] theorem evalRound_hasByte (w : Word) (n : Nat) : (s.evalRound w).hasByte n = s.hasByte n := rfl
@[simp] theorem evalRound_stateOk (w : Word) : (s.evalRound w).stateOk = s.stateOk := rfl
@[simp] theorem evalRound_blkFull (w : Word) : (s.evalRound w).blkFull = s.blkFull := rfl
@[simp] theorem evalRound_errBit (w : Word) (c : Cause) : (s.evalRound w).errBit c = s.errBit c := by cases c <;> rfl

/-! ### resetEvent -/

@[simp] theorem resetEvent_h : (s.resetEvent).h = State.reset.h := rfl
@[simp] theorem resetEvent_hvalid : (s.resetEvent).hvalid = State.reset.hvalid := rfl
@[simp] theorem resetEvent_blk : (s.resetEvent).blk = State.reset.blk := rfl
@[simp] theorem resetEvent_bvalid : (s.resetEvent).bvalid = State.reset.bvalid := rfl
@[simp] theorem resetEvent_busy : (s.resetEvent).busy = State.reset.busy := rfl
@[simp] theorem resetEvent_done : (s.resetEvent).done = State.reset.done := rfl
@[simp] theorem resetEvent_errBlock : (s.resetEvent).errBlock = State.reset.errBlock := rfl
@[simp] theorem resetEvent_errState : (s.resetEvent).errState = State.reset.errState := rfl
@[simp] theorem resetEvent_errCmd : (s.resetEvent).errCmd = State.reset.errCmd := rfl
@[simp] theorem resetEvent_errBus : (s.resetEvent).errBus = State.reset.errBus := rfl
@[simp] theorem resetEvent_x : (s.resetEvent).x = State.reset.x := rfl
@[simp] theorem resetEvent_left : (s.resetEvent).left = State.reset.left := rfl
@[simp] theorem resetEvent_right : (s.resetEvent).right = State.reset.right := rfl
@[simp] theorem resetEvent_seq : (s.resetEvent).seq = State.reset.seq := rfl
@[simp] theorem resetEvent_jL : (s.resetEvent).jL = State.reset.jL := rfl
@[simp] theorem resetEvent_jR : (s.resetEvent).jR = State.reset.jR := rfl
@[simp] theorem resetEvent_rst : (s.resetEvent).rst = State.reset.rst := rfl
@[simp] theorem resetEvent_req : (s.resetEvent).req = State.reset.req := rfl
@[simp] theorem resetEvent_rsp : (s.resetEvent).rsp = State.reset.rsp := rfl
@[simp] theorem resetEvent_fsel : (s.resetEvent).fsel = State.reset.fsel := rfl
@[simp] theorem resetEvent_fout : (s.resetEvent).fout = State.reset.fout := rfl
@[simp] theorem resetEvent_host : (s.resetEvent).host = s.host := rfl
@[simp] theorem resetEvent_engine : (s.resetEvent).engine = s.engine := rfl
@[simp] theorem resetEvent_draws : (s.resetEvent).draws = s.draws := rfl
@[simp] theorem resetEvent_sched : (s.resetEvent).sched = s.sched := rfl

/-! ### The composite operations -/

@[simp] theorem ack_eq : s.ack = s.answer 0#32 false := rfl
@[simp] theorem raise_eq (c : Cause) : s.raise c = s.raiseIf true c := rfl
@[simp] theorem busError_eq : s.busError = (s.raiseIf true .bus).answer 0#32 true := rfl
@[simp] theorem checkInputs_eq :
    s.checkInputs = (s.raiseIf (!s.stateOk) .state).raiseIf (!s.blkFull) .block := rfl
@[simp] theorem combineState_eq : s.combineState = s.completeWith (Machine.combine s.h s.left s.right) := rfl
@[simp] theorem complete_eq : s.complete = s.completeWith (Machine.compress s.h s.blkByte) := rfl
theorem afterDecode_eq : s.afterDecode = s.enter (if s.seq = .decode then .rounds else s.seq) := rfl
theorem afterStep_eq :
    s.afterStep = s.enter (if s.seq = .rounds ∧ s.roundsOver = true then .combine else s.seq) := rfl
@[simp] theorem command_nop : s.command .nop = s := rfl
@[simp] theorem command_compress : s.command .compress = s.issueCompress := rfl
@[simp] theorem command_reserved : s.command .reserved = s.raiseIf true .cmd := rfl

/-- R22, R143: a completion leaves every state word valid. -/
@[simp] theorem completeWith_stateOk (w : HFile) : (s.completeWith w).stateOk = true := rfl

/-- R25, R143: a completion leaves no block byte valid. -/
@[simp] theorem completeWith_blkFull (w : HFile) : (s.completeWith w).blkFull = false := rfl

/-- R235, R236: raising an error sets the bit of its own cause and leaves the others. -/
@[simp] theorem raiseIf_errBit (b : Bool) (c d : Cause) :
    (s.raiseIf b c).errBit d = (s.errBit d || (b && decide (c = d))) := by
  cases d <;> rfl

/-- R140, R141: what issuing a COMPRESS does to the error bits. -/
@[simp] theorem issueCompress_errBit (c : Cause) : s.issueCompress.errBit c = s.checkInputs.errBit c := by
  cases c <;> rfl

end Sys2Proof.Machine.State
end

