-- ==== Sys2Proof/Laws/Registers.lean ====
section
/-! SUPPORT. The laws of the register files and the valid bits: reads after writes, and the operations that write the
block buffer byte by byte. -/

namespace Sys2Proof.Machine

/-- R21: a read after a write, at every state word. -/
@[simp] theorem HFile.get_set (f : HFile) (i j : Fin 5) (v : Word) :
    (f.set i v).get j = if i = j then v else f.get j := by
  revert i j
  simp [Fin.forall_fin_succ, HFile.get, HFile.set]

/-- The five words determine the file. -/
theorem HFile.ext_get {f g : HFile} (h : ∀ i, f.get i = g.get i) : f = g := by
  cases f; cases g
  simp only [Fin.forall_fin_succ, HFile.get] at h
  simp_all

/-- R201: a quintuple copied from the state has its words, in the same order. -/
@[simp] theorem HFile.get_toQuint (f : HFile) (i : Fin 5) : f.toQuint.get i = f.get i := by
  revert i; simp [HFile.get, HFile.toQuint, Quint.get]

/-- R220: every word of Combine. -/
@[simp] theorem get_combine (hin : HFile) (ql qr : Quint) (i : Fin 5) :
    (combine hin ql qr).get i = hin.get (i + 1) + ql.get (i + 2) + qr.get (i + 3) := by
  revert i; simp [Fin.forall_fin_succ, HFile.get, combine, combineWord]

/-- R22: the valid bits after `H[i] <- v`. -/
@[simp] theorem State.writeH_hasH (s : State) (i j : Fin 5) (v : Word) :
    (s.writeH i v).hasH j = (s.hasH j || decide (i = j)) := by
  revert i j
  simp [Fin.forall_fin_succ, State.hasH, State.writeH]

/-- R25: the valid bits after `BLK[k] <- b`. -/
@[simp] theorem State.writeByte_hasByte (s : State) (k n : Nat) (b : Byte) :
    (s.writeByte k b).hasByte n = (s.hasByte n || decide (k = n ∧ n < 64)) := by
  simp only [State.hasByte, State.writeByte, BitVec.getLsbD_or, BitVec.getLsbD_shiftLeft, BitVec.getLsbD_one]
  rw [Bool.eq_iff_iff]; simp only [Bool.or_eq_true, Bool.and_eq_true, decide_eq_true_eq, Bool.not_eq_true', decide_eq_false_iff_not]
  exact or_congr Iff.rfl (by omega)

/-- R24: the bytes after `BLK[k] <- b`. -/
theorem State.writeByte_blkByte {s : State} (h : Memory.wf s.blk = true) (k n : Nat) (b : Byte) :
    (s.writeByte k b).blkByte n = if k = n then b else s.blkByte n := Memory.read_write h k b n

/-- R24: writing a byte of the block buffer keeps its canonical form. -/
theorem State.writeByte_wf {s : State} (h : Memory.wf s.blk = true) {k : Nat} (hk : k < 64) (b : Byte) :
    Memory.wf (s.writeByte k b).blk = true := Memory.wf_write h hk b

/-- R83: lane k of block word i is a byte of the buffer. -/
theorem blkIndex_lt (i : BitVec 4) {k : Nat} (hk : k < 4) : blkIndex i k < 64 := by
  have := i.isLt; unfold blkIndex; omega

/-- R116: the bytes after a word write: byte 4i + k takes lane k. -/
theorem State.writeBlkWord_blkByte {s : State} (h : Memory.wf s.blk = true) (i : BitVec 4) (v : Word) (n : Nat) :
    (s.writeBlkWord i v).blkByte n =
      if n / 4 = i.toNat then lane v (n % 4) else s.blkByte n := by
  have h0 := State.writeByte_wf h (blkIndex_lt i (k := 0) (by omega)) (lane v 0)
  have h1 := State.writeByte_wf h0 (blkIndex_lt i (k := 1) (by omega)) (lane v 1)
  have h2 := State.writeByte_wf h1 (blkIndex_lt i (k := 2) (by omega)) (lane v 2)
  rw [State.writeBlkWord, State.writeByte_blkByte h2, State.writeByte_blkByte h1, State.writeByte_blkByte h0,
    State.writeByte_blkByte h]
  unfold blkIndex
  by_cases hn : n / 4 = i.toNat
  · have hm : n % 4 = 0 ∨ n % 4 = 1 ∨ n % 4 = 2 ∨ n % 4 = 3 := by omega
    rw [if_pos hn]
    rcases hm with e | e | e | e <;> rw [e]
    · rw [if_neg (by omega), if_neg (by omega), if_neg (by omega), if_pos (by omega)]
    · rw [if_neg (by omega), if_neg (by omega), if_pos (by omega)]
    · rw [if_neg (by omega), if_pos (by omega)]
    · rw [if_pos (by omega)]
  · rw [if_neg hn, if_neg (by omega), if_neg (by omega), if_neg (by omega), if_neg (by omega)]

/-- R116: a word write keeps the canonical form. -/
theorem State.writeBlkWord_wf {s : State} (h : Memory.wf s.blk = true) (i : BitVec 4) (v : Word) :
    Memory.wf (s.writeBlkWord i v).blk = true :=
  State.writeByte_wf (State.writeByte_wf (State.writeByte_wf (State.writeByte_wf h (blkIndex_lt i (by omega)) _)
    (blkIndex_lt i (by omega)) _) (blkIndex_lt i (by omega)) _) (blkIndex_lt i (by omega)) _

/-- R25, R116: the valid bits after a word write. -/
@[simp] theorem State.writeBlkWord_hasByte (s : State) (i : BitVec 4) (v : Word) (n : Nat) :
    (s.writeBlkWord i v).hasByte n = (s.hasByte n || decide (n / 4 = i.toNat)) := by
  have := i.isLt
  simp only [State.writeBlkWord, State.writeByte_hasByte, blkIndex]
  rw [Bool.eq_iff_iff]; simp only [Bool.or_eq_true, decide_eq_true_eq, or_assoc]
  exact or_congr Iff.rfl (by omega)

/-- R141: the state is complete exactly when every HVALID bit is 1. -/
theorem State.stateOk_iff (s : State) : s.stateOk = true ↔ ∀ i, s.hasH i = true := by
  simp only [State.stateOk, State.hasH, beq_iff_eq]
  constructor
  · intro h i; rw [h, BitVec.getLsbD_allOnes]; simp
  · intro h
    refine BitVec.eq_of_getLsbD_eq fun k hk => ?_
    rw [BitVec.getLsbD_allOnes, h ⟨k, hk⟩]; simp [hk]

/-- R26, R141: BLK_FULL is the AND of the 64 BVALID bits. -/
theorem State.blkFull_iff (s : State) : s.blkFull = true ↔ ∀ n, n < 64 → s.hasByte n = true := by
  simp only [State.blkFull, State.hasByte, beq_iff_eq]
  constructor
  · intro h n hn; rw [h, BitVec.getLsbD_allOnes]; simp [hn]
  · intro h
    refine BitVec.eq_of_getLsbD_eq fun k hk => ?_
    rw [BitVec.getLsbD_allOnes, h k hk]; simp [hk]

end Sys2Proof.Machine
end

