-- ==== Sys2Proof/Laws/Ops.lean ====
section
/-! SUPPORT. What each shared operation that ends an instruction can do, said once: an access is held or performed, a
micro-operation steps or is refused. -/

namespace Sys2Proof.Machine

/-- R58: an access made while BUSY changes nothing. -/
@[simp] theorem access_busy {s : State} (h : s.busy = true) (p : State) : access s p = .next s := by
  simp [access, hold, h]

/-- R111: an access made while BUSY is 0 is performed. -/
@[simp] theorem access_free {s : State} (h : s.busy = false) (p : State) : access s p = .next p := by
  simp [access, h]

/-- R111: everything an access to H, BLK or CTRL can do. -/
theorem access_next {s p t : State} (h : access s p = .next t) :
    (s.busy = true ∧ t = s) ∨ (s.busy = false ∧ t = p) := by
  unfold access hold at h
  split at h <;> cases h <;> simp_all

/-- R112: everything a read of `H[i]` performs. -/
theorem State.readH_cases (s : State) (i : Fin 5) :
    (s.hasH i = true ∧ s.readH i = s.answer (s.h.get i) false)
      ∨ (s.hasH i = false ∧ s.readH i = { s with draws := s.draws + 1 }.answer (Config.draw32 s.engine s.draws) false) := by
  unfold readH
  cases h : s.hasH i <;> simp

/-- R89: everything a pipeline micro-operation can do. -/
theorem microStep_next {j : BitVec 7} {p t : State} (h : microStep j p = .next t) :
    j.toNat < 80 ∧ t = p.afterStep := by
  unfold microStep stepInRange at h
  split at h
  · cases h; simp_all
  · cases h

theorem microStep_inRange {j : BitVec 7} (h : j.toNat < 80) (p : State) : microStep j p = .next p.afterStep := by
  simp [microStep, stepInRange, h]

/-- R89, U8: a step number of 80..127 is refused. -/
theorem microStep_reserved {j : BitVec 7} (h : 80 ≤ j.toNat) (p : State) :
    microStep j p = .refused .reservedUseq := by
  simp [microStep, stepInRange, Nat.not_lt.mpr h]

/-- R207: both pipelines are done exactly when both counters have reached 80. -/
theorem State.roundsOver_iff (s : State) : s.roundsOver = true ↔ 80 ≤ s.jL.toNat ∧ 80 ≤ s.jR.toNat := by
  simp [roundsOver]

/-- R207: the phase after a step. -/
theorem State.afterStep_seq (s : State) :
    s.afterStep.seq = if s.seq = .rounds ∧ 80 ≤ s.jL.toNat ∧ 80 ≤ s.jR.toNat then .combine else s.seq := by
  simp [afterStep, roundsOver_iff]

/-- R142, R205: the transform in terms of 80 steps of each pipeline, so that no proof unfolds the 80 steps. -/
theorem compress_eq (hin : HFile) (b : Nat → Byte) :
    compress hin b = combine hin (pipeAfter .left (schedule b) hin.toQuint 80)
      (pipeAfter .right (schedule b) hin.toQuint 80) := by
  unfold compress pipeline; exact Eq.refl _

/-- R84: the two defined commands and the reserved ones. -/
theorem commandOf_reserved {c : Word} (h0 : c ≠ 0x00000000#32) (h1 : c ≠ 0x00000001#32) : commandOf c = .reserved := by
  simp [commandOf, h0, h1]

end Sys2Proof.Machine
end

