-- ==== Sys2Proof/Laws/Exec.lean ====
section
/-! SUPPORT. The meaning of every host access by its target, so that a proof about all of them has one case per
target. -/

namespace Sys2Proof.Machine

/-- R112, R117, R118, R120, R122: what the read of a target means. -/
theorem exec_readInstr (tgt : Target) (s : State) :
    exec (readInstr tgt) s =
      match tgt with
      | .h i => accessReadH i s
      | .blkByte _ => accessReadZero s
      | .blkWord _ => accessReadZero s
      | .ctrl => accessReadZero s
      | .status => .next (s.answer s.statusWord false) := by
  cases tgt with
  | h i => revert i; simp only [Fin.forall_fin_succ]; exact ⟨rfl, rfl, rfl, rfl, rfl, nofun⟩
  | blkByte n => rfl
  | blkWord i => rfl
  | ctrl => rfl
  | status => rfl

/-- R113, R115, R116, R119, R121: what the write of a target means. -/
theorem exec_writeInstr (v : Word) (tgt : Target) (s : State) :
    exec (writeInstr v tgt) s =
      match tgt with
      | .h i => accessWriteH i v s
      | .blkByte n => access s (s.writeByte n.toNat (lane v 0)).ack
      | .blkWord i => access s (s.writeBlkWord i v).ack
      | .ctrl => accessCommand (commandOf v) s
      | .status => .next s.ack := by
  cases tgt with
  | h i => revert i; simp only [Fin.forall_fin_succ]; exact ⟨rfl, rfl, rfl, rfl, rfl, nofun⟩
  | blkByte n => rfl
  | blkWord i => rfl
  | ctrl => rfl
  | status => rfl

/-- R58, R111: an access that may be held changes nothing while BUSY. -/
theorem exec_held {i : Instr} {s : State} (hi : i.holdable = true) (hb : s.busy = true) : exec i s = .next s := by
  cases i <;> first | (exact access_busy hb _) | cases hi

/-- R53, R58: a target's read or write may be held unless the target is STATUS. -/
@[simp] theorem holdable_readInstr (tgt : Target) : (readInstr tgt).holdable = decide (tgt ≠ .status) := by
  cases tgt with
  | h i => revert i; decide
  | blkByte n => rfl
  | blkWord i => rfl
  | ctrl => rfl
  | status => rfl

@[simp] theorem holdable_writeInstr (v : Word) (tgt : Target) :
    (writeInstr v tgt).holdable = decide (tgt ≠ .status) := by
  cases tgt with
  | h i => revert i; simp only [Fin.forall_fin_succ]; exact ⟨rfl, rfl, rfl, rfl, rfl, nofun⟩
  | blkByte n => rfl
  | blkWord i => rfl
  | ctrl => rfl
  | status => rfl

/-- What a selector's evaluation means: the output of the round-function unit, and the selector is taken. -/
theorem exec_select {f : FselReq} {i : Instr} (h : decodeFsel f = .ok i) (s : State) :
    ∃ w, exec i s = .next (s.evalRound w) := by
  rcases decodeFsel_ok h with rfl | rfl | rfl | rfl | rfl <;> exact ⟨_, rfl⟩

/-- Everything a performed host access can leave behind. -/
inductive AccessTo (s t : State) : Prop where
  /-- R112. -/
  | readH (i : Fin 5) (hb : s.busy = false) (ht : t = s.readH i)
  /-- A read of BLK or CTRL, or a NOP. -/
  | answered (w : Word) (ht : t = s.answer w false)
  /-- R113. -/
  | writeH (i : Fin 5) (v : Word) (hb : s.busy = false) (ht : t = (s.writeH i v).ack)
  /-- R115. -/
  | writeByte (n : BitVec 6) (b : Byte) (hb : s.busy = false) (ht : t = (s.writeByte n.toNat b).ack)
  /-- R116. -/
  | writeBlkWord (i : BitVec 4) (v : Word) (hb : s.busy = false) (ht : t = (s.writeBlkWord i v).ack)
  /-- R140. -/
  | compress (hb : s.busy = false) (ht : t = s.issueCompress.ack)
  /-- R145. -/
  | reserved (hb : s.busy = false) (ht : t = (s.raise .cmd).ack)

/-- Everything a transaction that decodes and is not held can do. -/
theorem exec_access {r : BusReq} {i : Instr} {s t : State} (hd : decodeBus r = .ok i)
    (hb : (s.busy && i.holdable) = false) (ht : exec i s = .next t) : AccessTo s t := by
  obtain ⟨tgt, -, rfl⟩ := decodeBus_ok hd
  have free : tgt ≠ .status → s.busy = false := fun hn => by
    split at hb <;> simp_all
  by_cases hw : r.isWrite = true
  · rw [if_pos hw] at ht
    rw [exec_writeInstr] at ht
    cases tgt with
    | h k => have hf := free (by simp); simp only [accessWriteH, access_free hf] at ht; cases ht; exact .writeH k _ hf rfl
    | blkByte n => have hf := free (by simp); simp only [access_free hf] at ht; cases ht; exact .writeByte n _ hf rfl
    | blkWord k => have hf := free (by simp); simp only [access_free hf] at ht; cases ht; exact .writeBlkWord k _ hf rfl
    | ctrl =>
      have hf := free (by simp)
      simp only [accessCommand, access_free hf] at ht; cases ht
      cases commandOf r.wdata with
      | nop => exact .answered 0#32 rfl
      | compress => exact .compress hf rfl
      | reserved => exact .reserved hf rfl
    | status => cases ht; exact .answered 0#32 rfl
  · rw [if_neg hw] at ht
    rw [exec_readInstr] at ht
    cases tgt with
    | h k => have hf := free (by simp); simp only [accessReadH, access_free hf] at ht; cases ht; exact .readH k hf rfl
    | blkByte n => have hf := free (by simp); simp only [accessReadZero, access_free hf] at ht; cases ht; exact .answered _ rfl
    | blkWord k => have hf := free (by simp); simp only [accessReadZero, access_free hf] at ht; cases ht; exact .answered _ rfl
    | ctrl => have hf := free (by simp); simp only [accessReadZero, access_free hf] at ht; cases ht; exact .answered _ rfl
    | status => cases ht; exact .answered _ rfl

end Sys2Proof.Machine
end

