-- ==== Sys2Proof/Laws/PerInstr.lean ====
section
/-! SUPPORT. The family EncodedFits of statements made per instruction: the words the encoder gives a well-formed
instruction are in the format of its row of the opcode map and fit its match and mask (30_encoding.md R88). -/

namespace Sys2Proof.Laws.EncodedFits

/-- R88: the encoded word is in the row's format, and its bits under the row's mask are the row's match. -/
def Statement (i : Instr) : Prop :=
  i.wellFormed = true → (encode i).format = (rowOf i).format ∧ (rowOf i).fits (encode i).bits = true

theorem rd32H0 : Statement (.rd32H0) := fun _ => by decide

theorem rd32H1 : Statement (.rd32H1) := fun _ => by decide

theorem rd32H2 : Statement (.rd32H2) := fun _ => by decide

theorem rd32H3 : Statement (.rd32H3) := fun _ => by decide

theorem rd32H4 : Statement (.rd32H4) := fun _ => by decide

theorem wr32H0 (v : Word) : Statement (.wr32H0 v) :=
  have h : (rowOf (.wr32H0 0)).fits (encode (.wr32H0 0)).bits = true := by decide
  fun _ => ⟨rfl, h⟩

theorem wr32H1 (v : Word) : Statement (.wr32H1 v) :=
  have h : (rowOf (.wr32H1 0)).fits (encode (.wr32H1 0)).bits = true := by decide
  fun _ => ⟨rfl, h⟩

theorem wr32H2 (v : Word) : Statement (.wr32H2 v) :=
  have h : (rowOf (.wr32H2 0)).fits (encode (.wr32H2 0)).bits = true := by decide
  fun _ => ⟨rfl, h⟩

theorem wr32H3 (v : Word) : Statement (.wr32H3 v) :=
  have h : (rowOf (.wr32H3 0)).fits (encode (.wr32H3 0)).bits = true := by decide
  fun _ => ⟨rfl, h⟩

theorem wr32H4 (v : Word) : Statement (.wr32H4 v) :=
  have h : (rowOf (.wr32H4 0)).fits (encode (.wr32H4 0)).bits = true := by decide
  fun _ => ⟨rfl, h⟩

theorem wr8Blk (n : BitVec 6) (v : Word) : Statement (.wr8Blk n v) := fun _ => by
  have h : ∀ n : BitVec 6, (rowOf (.wr8Blk n 0)).fits (busWord 1#1 0b00#2 (byteOffset n)).toNat = true := by decide
  exact ⟨rfl, h n⟩

theorem wr32Blk (i : BitVec 4) (v : Word) : Statement (.wr32Blk i v) := fun _ => by
  have h : ∀ i : BitVec 4, (rowOf (.wr32Blk i 0)).fits (busWord 1#1 0b10#2 (wordOffset i)).toNat = true := by decide
  exact ⟨rfl, h i⟩

theorem rd8Blk (n : BitVec 6) : Statement (.rd8Blk n) := fun _ => by revert n; decide

theorem rd32Blk (i : BitVec 4) : Statement (.rd32Blk i) := fun _ => by revert i; decide

theorem wr32Ctrl (c : Word) : Statement (.wr32Ctrl c) :=
  have h : (rowOf (.wr32Ctrl 0)).fits (encode (.wr32Ctrl 0)).bits = true := by decide
  fun _ => ⟨rfl, h⟩

theorem rd32Ctrl : Statement (.rd32Ctrl) := fun _ => by decide

theorem wr32Status (v : Word) : Statement (.wr32Status v) :=
  have h : (rowOf (.wr32Status 0)).fits (encode (.wr32Status 0)).bits = true := by decide
  fun _ => ⟨rfl, h⟩

theorem rd32Status : Statement (.rd32Status) := fun _ => by decide

theorem nop : Statement (.nop) := fun _ => by decide

theorem compress : Statement (.compress) := fun _ => by decide

theorem f0 (b c d : Word) : Statement (.f0 b c d) :=
  have h : (rowOf (.f0 0 0 0)).fits (encode (.f0 0 0 0)).bits = true := by decide
  fun _ => ⟨rfl, h⟩

theorem f1 (b c d : Word) : Statement (.f1 b c d) :=
  have h : (rowOf (.f1 0 0 0)).fits (encode (.f1 0 0 0)).bits = true := by decide
  fun _ => ⟨rfl, h⟩

theorem f2 (b c d : Word) : Statement (.f2 b c d) :=
  have h : (rowOf (.f2 0 0 0)).fits (encode (.f2 0 0 0)).bits = true := by decide
  fun _ => ⟨rfl, h⟩

theorem f3 (b c d : Word) : Statement (.f3 b c d) :=
  have h : (rowOf (.f3 0 0 0)).fits (encode (.f3 0 0 0)).bits = true := by decide
  fun _ => ⟨rfl, h⟩

theorem f4 (b c d : Word) : Statement (.f4 b c d) :=
  have h : (rowOf (.f4 0 0 0)).fits (encode (.f4 0 0 0)).bits = true := by decide
  fun _ => ⟨rfl, h⟩

theorem decode : Statement (.decode) := fun _ => by decide

theorem stepl (j : BitVec 7) : Statement (.stepl j) := by revert j; unfold Statement; decide

theorem stepr (j : BitVec 7) : Statement (.stepr j) := by revert j; unfold Statement; decide

theorem combine : Statement (.combine) := fun _ => by decide

end Sys2Proof.Laws.EncodedFits
end

