-- ==== Sys2Proof/Laws/Platform.lean ====
section
/-! SUPPORT. What a step of a platform of several engines can do. -/

namespace Sys2Proof.Machine

/-- R67: everything a platform's step can do: nothing, where there is no such engine, or one step of that engine. -/
theorem platformStep_cases {k : Nat} {engines after : List State} (h : platformStep k engines = .next after) :
    (engines[k]? = none ∧ after = engines)
      ∨ ∃ s t, engines[k]? = some s ∧ step s = .next t ∧ after = engines.set k t := by
  unfold platformStep at h
  split at h
  · next hk => cases h; exact .inl ⟨hk, rfl⟩
  · next s hk =>
    split at h
    · next t ht => cases h; exact .inr ⟨s, t, hk, ht, rfl⟩
    · cases h
    · cases h

/-- R67: a platform's step of an engine it has. -/
theorem platformStep_next {k : Nat} {engines : List State} {s t : State} (hk : engines[k]? = some s)
    (ht : step s = .next t) : platformStep k engines = .next (engines.set k t) := by
  simp [platformStep, hk, ht]

/-- A platform has no engine of this number, and its step changes nothing. -/
theorem platformStep_none {k : Nat} {engines : List State} (hk : engines[k]? = none) :
    platformStep k engines = .next engines := by
  simp [platformStep, hk]

end Sys2Proof.Machine
end

