-- ==== Sys2Proof/Laws/Run.lean ====
section
/-! SUPPORT. The laws of running several steps: the first step, then the others. -/

namespace Sys2Proof.Machine

open Host (Core)

/-- A run of k + 1 steps is its first step and then a run of k. -/
theorem run_step (M : Core) (k : Nat) (s : M.State) :
    M.run (k + 1) s =
      match M.step s with
      | .next t => M.run k t
      | .fault f => .fault f
      | .refused r => .refused r := rfl

/-- A run goes on from the state its first step leaves. -/
theorem run_next (M : Core) {k : Nat} {s t : M.State} (h : M.step s = .next t) : M.run (k + 1) s = M.run k t := by
  rw [run_step, h]

/-- A run of k + m steps goes on from the state its first k steps leave. -/
theorem run_append (M : Core) : ∀ {k : Nat} (m : Nat) {s t : M.State}, M.run k s = .next t →
    M.run (k + m) s = M.run m t
  | 0, m, s, t, h => by cases h; rw [Nat.zero_add]
  | k + 1, m, s, t, h => by
    rw [run_step] at h
    rw [show k + 1 + m = k + m + 1 by omega, run_step]
    cases hs : M.step s with
    | next u => rw [hs] at h; exact run_append M m h
    | fault f => rw [hs] at h; cases h
    | refused r => rw [hs] at h; cases h

/-- A run of one more step ends as the last step does. -/
theorem run_snoc (M : Core) {k : Nat} {s t : M.State} (h : M.run k s = .next t) : M.run (k + 1) s = M.step t := by
  rw [run_append M 1 h, run_step]
  cases M.step t <;> rfl

/-- The model's machine goes on from the state its first step leaves. -/
theorem core_run_next {k : Nat} {s t : State} (h : step s = .next t) : core.run (k + 1) s = core.run k t :=
  run_next core h

/-- The model's machine goes on from the state its first k steps leave. -/
theorem core_run_append {k : Nat} (m : Nat) {s t : State} (h : core.run k s = .next t) :
    core.run (k + m) s = core.run m t := run_append core m h

/-- A run of the model's machine of one more step ends as the last step does. -/
theorem core_run_snoc {k : Nat} {s t : State} (h : core.run k s = .next t) : core.run (k + 1) s = step t :=
  run_snoc core h

end Sys2Proof.Machine
end

