-- ==== Sys2Proof/Laws/Step.lean ====
section
/-! SUPPORT. What one step can do, said once: the turns of Machine/Fetch.lean and the state each leaves. -/

namespace Sys2Proof.Machine

/-- R207: everything the sequencer can do next. -/
theorem engineMove_cases (s : State) :
    (s.seq = .idle ∧ engineMove s = none)
      ∨ (s.seq = .decode ∧ engineMove s = some (.instr .decode))
      ∨ (s.seq = .rounds ∧ s.jL.toNat < 80 ∧ leftNext s = true ∧ engineMove s = some (.instr (.stepl s.jL)))
      ∨ (s.seq = .rounds ∧ s.jR.toNat < 80 ∧ leftNext s = false ∧ engineMove s = some (.instr (.stepr s.jR)))
      ∨ (s.seq = .rounds ∧ 80 ≤ s.jL.toNat ∧ 80 ≤ s.jR.toNat ∧ engineMove s = some .leaveRounds)
      ∨ (s.seq = .combine ∧ engineMove s = some (.instr .combine)) := by
  cases hq : s.seq with
  | idle => simp [engineMove, microWord, hq]
  | decode => simp [engineMove, microWord, microTurn, hq]
  | combine => simp [engineMove, microWord, microTurn, hq]
  | rounds =>
    cases hl : leftNext s with
    | true =>
      have hj : s.jL.toNat < 80 := by
        simp only [leftNext, Bool.and_eq_true, decide_eq_true_eq] at hl; exact hl.1
      simp [engineMove, microWord, microTurn, hq, hl, decodeUseq_stepl hj, hj]
    | false =>
      by_cases hj : s.jR.toNat < 80
      · simp [engineMove, microWord, microTurn, hq, hl, decodeUseq_stepr hj, hj]
      · have hk : 80 ≤ s.jL.toNat := by
          by_contra hc
          have h1 : s.jL.toNat < 80 := by omega
          have h2 : 80 ≤ s.jR.toNat := by omega
          simp [leftNext, h1, h2] at hl
        have h2 : 80 ≤ s.jR.toNat := by omega
        simp [engineMove, microWord, hq, hl, hj, hk, h2]

/-- R207: the sequencer has no next move only in IDLE. -/
theorem engineMove_none {s : State} (h : engineMove s = none) : s.seq = .idle := by
  rcases engineMove_cases s with ⟨hq, _⟩ | ⟨_, hm⟩ | ⟨_, _, _, hm⟩ | ⟨_, _, _, hm⟩ | ⟨_, _, _, hm⟩ | ⟨_, hm⟩
  · exact hq
  all_goals rw [hm] at h; cases h

/-- R61, R110, R260: everything the outside world can do next. -/
theorem outsideMove_some {s t : State} (h : outsideMove s = some t) :
    (∃ rest, s.host = .reset :: rest ∧ t = { s with rst := true, host := rest, sched := s.sched + 1 })
      ∨ (∃ r rest, s.host = .access r :: rest ∧ s.req = none
          ∧ t = { s with req := some r, rsp := none, host := rest, sched := s.sched + 1 }) := by
  unfold outsideMove at h
  split at h
  · cases h
  · next rest hh => cases h; exact .inl ⟨rest, hh, rfl⟩
  · next r rest hh =>
    split at h
    · next hr => cases h; exact .inr ⟨r, rest, hh, hr, rfl⟩
    · cases h

/-- R62: everything that can happen when no transaction is to be answered: the sequencer moves, the outside world
moves, or nothing does. -/
theorem waitTurn_cases (s : State) :
    (∃ e, engineMove s = some e ∧ waitTurn s = e)
      ∨ (∃ t, outsideMove s = some t ∧ waitTurn s = .outside t)
      ∨ (engineMove s = none ∧ outsideMove s = none ∧ waitTurn s = .idle) := by
  unfold waitTurn
  cases he : engineMove s <;> cases ho : outsideMove s <;> simp
  cases Config.outsideFirst s.engine s.sched <;> simp

/-- R234, R260: reset wins over every other event. -/
theorem step_reset {s : State} (h : s.rst = true) : step s = .next s.resetEvent := by
  simp [step, nextTurn, h]

/-- R111: a transaction that decodes and is not held runs as its instruction. -/
theorem step_access {s : State} {r : BusReq} {i : Instr} (h1 : s.rst = false) (h2 : s.fsel = none)
    (h3 : s.req = some r) (h4 : decodeBus r = .ok i) (h5 : (s.busy && i.holdable) = false) : step s = exec i s := by
  simp [step, nextTurn, reqTurn, h1, h2, h3, h4, h5]

/-- R111, R233: a transaction that does not decode is answered as a bus error, also while BUSY. -/
theorem step_busError {s : State} {r : BusReq} {e : Reject} (h1 : s.rst = false) (h2 : s.fsel = none)
    (h3 : s.req = some r) (h4 : decodeBus r = .error e) : step s = .next s.busError := by
  simp [step, nextTurn, reqTurn, h1, h2, h3, h4]

/-- R61, R110: the outside world cannot move when its list is empty. -/
theorem outsideMove_nil {s : State} (h : s.host = []) : outsideMove s = none := by
  simp [outsideMove, h]

/-- R61, R110: the outside world cannot move when its next event is an access and one is pending. -/
theorem outsideMove_waits {s : State} {r a : BusReq} {rest : List HostEvent} (h : s.host = .access a :: rest)
    (hr : s.req = some r) : outsideMove s = none := by
  simp [outsideMove, h, hr]

/-- R58, R62: while there is no transaction, or a held one, and the outside world cannot move, the sequencer moves. -/
theorem step_engine {s : State} {e : Turn} (h1 : s.rst = false) (h2 : s.fsel = none) (ho : outsideMove s = none)
    (h4 : s.req = none ∨ ∃ r i, s.req = some r ∧ decodeBus r = .ok i ∧ s.busy = true ∧ i.holdable = true)
    (h5 : engineMove s = some e) : nextTurn s = e := by
  have hw : waitTurn s = e := by simp [waitTurn, h5, ho]
  rcases h4 with h4 | ⟨r, i, hr, hd, hb, hh⟩
  · simp [nextTurn, h1, h2, h4, hw]
  · simp [nextTurn, reqTurn, h1, h2, hr, hd, hb, hh, hw]

/-- The kinds of next state, each with what led to it. -/
inductive StepTo (s t : State) : Prop where
  /-- R260. -/
  | reset (hr : s.rst = true) (ht : t = s.resetEvent)
  /-- A selector at the round-function unit is evaluated (log entry 12). -/
  | select (f : FselReq) (i : Instr) (hr : s.rst = false) (hf : s.fsel = some f) (hd : decodeFsel f = .ok i)
      (ht : exec i s = .next t)
  /-- R111: a host access is performed. -/
  | access (r : BusReq) (i : Instr) (hr : s.rst = false) (hf : s.fsel = none) (hq : s.req = some r)
      (hd : decodeBus r = .ok i) (hb : (s.busy && i.holdable) = false) (ht : exec i s = .next t)
  /-- R233. -/
  | busError (r : BusReq) (e : Reject) (hr : s.rst = false) (hf : s.fsel = none) (hq : s.req = some r)
      (hd : decodeBus r = .error e) (ht : t = s.busError)
  /-- R207: the sequencer issues DECODE. -/
  | decode (hr : s.rst = false) (hs : s.seq = .decode) (ht : exec .decode s = .next t)
  /-- R207: the sequencer issues a left step. -/
  | stepl (hr : s.rst = false) (hs : s.seq = .rounds) (hj : s.jL.toNat < 80) (ht : exec (.stepl s.jL) s = .next t)
  /-- R207: the sequencer issues a right step. -/
  | stepr (hr : s.rst = false) (hs : s.seq = .rounds) (hj : s.jR.toNat < 80) (ht : exec (.stepr s.jR) s = .next t)
  /-- R207: both pipelines are done and the sequencer leaves ROUNDS. -/
  | leave (hr : s.rst = false) (hs : s.seq = .rounds) (hj : 80 ≤ s.jL.toNat) (hk : 80 ≤ s.jR.toNat)
      (ht : t = s.afterStep)
  /-- R207: the sequencer issues COMBINE. -/
  | combine (hr : s.rst = false) (hs : s.seq = .combine) (ht : exec .combine s = .next t)
  /-- The outside world moves. -/
  | outside (hr : s.rst = false) (ho : outsideMove s = some t)
  /-- Nothing is left to do. -/
  | idle (hr : s.rst = false) (hs : s.seq = .idle) (ho : outsideMove s = none) (ht : t = s)

/-- What a step does when no transaction is to be answered. -/
theorem step_wait {s t : State} (h : step s = .next t) (hr : s.rst = false) (hn : nextTurn s = waitTurn s) :
    StepTo s t := by
  rcases waitTurn_cases s with ⟨e, he, hw⟩ | ⟨u, hu, hw⟩ | ⟨hne, ho, hw⟩
  · rcases engineMove_cases s with ⟨_, hm⟩ | ⟨hq, hm⟩ | ⟨hq, hj, _, hm⟩ | ⟨hq, hj, _, hm⟩ | ⟨hq, hj, hk, hm⟩ | ⟨hq, hm⟩ <;>
      rw [hm] at he <;> cases he <;> rw [step, hn, hw] at h
    · exact .decode hr hq h
    · exact .stepl hr hq hj h
    · exact .stepr hr hq hj h
    · exact .leave hr hq hj hk (by cases h; rfl)
    · exact .combine hr hq h
  · rw [step, hn, hw] at h; cases h
    exact .outside hr hu
  · rw [step, hn, hw] at h; cases h
    exact .idle hr (engineMove_none hne) ho rfl

/-- Everything one step can do. -/
theorem step_cases {s t : State} (h : step s = .next t) : StepTo s t := by
  cases hr : s.rst with
  | true =>
    rw [step_reset hr] at h; cases h
    exact .reset hr rfl
  | false =>
    cases hf : s.fsel with
    | some f =>
      cases hd : decodeFsel f with
      | ok i =>
        have hn : nextTurn s = .instr i := by simp [nextTurn, fselTurn, hr, hf, hd]
        rw [step, hn] at h
        exact .select f i hr hf hd h
      | error e =>
        have hn : nextTurn s = .refuse .reservedFsel := by simp [nextTurn, fselTurn, hr, hf, hd]
        rw [step, hn] at h; cases h
    | none =>
      cases hq : s.req with
      | none => exact step_wait h hr (by simp [nextTurn, hr, hf, hq])
      | some r =>
        cases hd : decodeBus r with
        | error e =>
          rw [step_busError hr hf hq hd] at h; cases h
          exact .busError r e hr hf hq hd rfl
        | ok i =>
          cases hb : (s.busy && i.holdable) with
          | true => exact step_wait h hr (by simp only [nextTurn, reqTurn, hr, hf, hq, hd, hb]; simp)
          | false =>
            rw [step_access hr hf hq hd hb] at h
            exact .access r i hr hf hq hd hb h

end Sys2Proof.Machine
end

