-- ==== Sys2Proof/Laws/Tables.lean ====
section
/-! SUPPORT. The invariants of the constant tables, 43_constant_tables.md R177: a model whose tables fail them is not
built. -/

namespace Sys2Proof.Machine

/-- R177: RL, RR, SL and SR have 80 entries each, the others 5. -/
theorem tables_length :
    rlTable.length = 80 ∧ rrTable.length = 80 ∧ slTable.length = 80 ∧ srTable.length = 80 ∧ klTable.length = 5
      ∧ krTable.length = 5 ∧ flTable.length = 5 ∧ frTable.length = 5 := by decide

/-- R177: every rotation amount lies in 5..15. -/
theorem rotAmount_range (side : Side) {j : Nat} (h : j < 80) : 5 ≤ rotAmount side j ∧ rotAmount side j ≤ 15 := by
  have hl : ∀ k : Fin 80, 5 ≤ rotAmount .left k ∧ rotAmount .left k ≤ 15 := by decide
  have hr : ∀ k : Fin 80, 5 ≤ rotAmount .right k ∧ rotAmount .right k ≤ 15 := by decide
  cases side
  · exact hl ⟨j, h⟩
  · exact hr ⟨j, h⟩

/-- R177: FR is FL reversed. -/
theorem frTable_reverse : frTable = flTable.reverse := by decide

/-- R172, R173: applying rho, the group-1 row of RL, once more to a group's row of RL or RR gives the next group's. That
each row is a permutation (R177) is a statement of Certificates/Slice0/Obligations.lean. -/
theorem schedIndex_rho (side : Side) (g : Fin 4) (i : Fin 16) :
    schedIndex side (16 * (g.val + 1) + i.val) = schedIndex .left (16 + (schedIndex side (16 * g.val + i.val)).val) := by
  revert side g i
  intro side; cases side <;> decide

end Sys2Proof.Machine
end

