-- ==== Sys2Proof/Tests/Slice0.lean ====
section
/-! SUPPORT. The model's own tests, each of one word or one step, with the values of 95_test_vectors.md; and, at the end,
for every statement of Certificates/Slice0/Obligations.lean that has hypotheses, a theorem that shows states and operands
that meet them, one for each clause. -/

namespace Sys2Proof.Tests

open Sys2Proof.Machine

/-! ## Small states and observers -/

/-- The state an outcome leaves, if it leaves one. -/
def after : Host.Outcome State Fault Refusal → Option State
  | .next t => some t
  | .fault _ => none
  | .refused _ => none

/-- A field of the state that executing an instruction leaves. -/
def sees {α : Type} (f : State → α) (i : Instr) (s : State) : Option α := (after (exec i s)).map f

/-- After reset, and `ldiv`: the initialisation vector, every state word valid. -/
def loaded : State := { State.reset with h := HostSide.iv, hvalid := 0b11111#5 }

/-- As `loaded`, and a full block of zero bytes. -/
def ready : State := { loaded with bvalid := BitVec.allOnes 64 }

/-- As `ready`, with a COMPRESS just accepted. -/
def flight : State := { ready with busy := true, seq := .decode }

/-- As `flight`, in ROUNDS with these step counts. -/
def rounds (l r : BitVec 7) : State := { flight.loadPipelines with seq := .rounds, jL := l, jR := r }

/-- As `flight`, in COMBINE. -/
def combining : State := { rounds 80#7 80#7 with seq := .combine }

/-- A read of H0 and a write of 7 to H1. -/
def readH0 : BusReq := ⟨0x200#11, 0#32⟩

def writeH1 : BusReq := ⟨0x604#11, 7#32⟩

/-- The padded `abc` block of V1.3. -/
def abcByte (n : Nat) : Byte := [0x61#8, 0x62#8, 0x63#8, 0x80#8].getD n (if n = 56 then 0x18#8 else 0x00#8)

/-- The quintuple of five equal words. -/
def quint (w : Word) : Quint := ⟨w, w, w, w, w⟩

/-- A state with this left and right quintuple and every schedule word equal. -/
def atStep (q : Quint) (x : Word) : State := { State.reset with left := q, right := q, x := Vector.replicate 16 x }

/-! ## Well-formed terms (R86, R88, R89) -/

theorem test_wellFormed_last_step : (Instr.stepl 79#7).wellFormed = true ∧ (Instr.stepr 79#7).wellFormed = true := by
  decide

theorem test_stepl_80_is_ill_formed : (Instr.stepl 80#7).wellFormed = false := by decide

theorem test_stepr_127_is_ill_formed : (Instr.stepr 127#7).wellFormed = false := by decide

/-! ## Decoding: words written out bit by bit from R81 to R88 -/

/-- R88: W = 0, SZ = 10, OFF = 000iii00, and W = 1 for the writes. -/
theorem test_decode_state_registers :
    decodeBus ⟨0b01000000000#11, 0#32⟩ = .ok .rd32H0 ∧ decodeBus ⟨0b01000000100#11, 0#32⟩ = .ok .rd32H1
      ∧ decodeBus ⟨0b01000001000#11, 0#32⟩ = .ok .rd32H2 ∧ decodeBus ⟨0b01000001100#11, 0#32⟩ = .ok .rd32H3
      ∧ decodeBus ⟨0b01000010000#11, 0#32⟩ = .ok .rd32H4 ∧ decodeBus ⟨0b11000000000#11, 5#32⟩ = .ok (.wr32H0 5#32)
      ∧ decodeBus ⟨0b11000000100#11, 5#32⟩ = .ok (.wr32H1 5#32)
      ∧ decodeBus ⟨0b11000001000#11, 5#32⟩ = .ok (.wr32H2 5#32)
      ∧ decodeBus ⟨0b11000001100#11, 5#32⟩ = .ok (.wr32H3 5#32)
      ∧ decodeBus ⟨0b11000010000#11, 5#32⟩ = .ok (.wr32H4 5#32) := by decide

/-- R88: `1 00 01nnnnnn`, `1 10 01iiii00`, `0 00 01nnnnnn` and `0 10 01iiii00`. -/
theorem test_decode_block_buffer :
    decodeBus ⟨0b10001000000#11, 0x61#32⟩ = .ok (.wr8Blk 0#6 0x61#32)
      ∧ decodeBus ⟨0b10001100101#11, 0x61#32⟩ = .ok (.wr8Blk 0b100101#6 0x61#32)
      ∧ decodeBus ⟨0b11001101000#11, 9#32⟩ = .ok (.wr32Blk 0b1010#4 9#32)
      ∧ decodeBus ⟨0b00001111111#11, 0#32⟩ = .ok (.rd8Blk 63#6)
      ∧ decodeBus ⟨0b01001000100#11, 0#32⟩ = .ok (.rd32Blk 1#4) := by decide

/-- R88: OFF = 11110000 and 11110100. -/
theorem test_decode_ctrl_status :
    decodeBus ⟨0b11011110000#11, 2#32⟩ = .ok (.wr32Ctrl 2#32) ∧ decodeBus ⟨0b01011110000#11, 0#32⟩ = .ok .rd32Ctrl
      ∧ decodeBus ⟨0b11011110100#11, 2#32⟩ = .ok (.wr32Status 2#32)
      ∧ decodeBus ⟨0b01011110100#11, 0#32⟩ = .ok .rd32Status := by decide

/-- R84, R85, R86. -/
theorem test_decode_internal_words :
    decodeCmd 0#32 = .ok .nop ∧ decodeCmd 1#32 = .ok .compress
      ∧ decodeFsel ⟨0b000#3, 1#32, 2#32, 3#32⟩ = .ok (.f0 1#32 2#32 3#32)
      ∧ decodeFsel ⟨0b001#3, 1#32, 2#32, 3#32⟩ = .ok (.f1 1#32 2#32 3#32)
      ∧ decodeFsel ⟨0b010#3, 1#32, 2#32, 3#32⟩ = .ok (.f2 1#32 2#32 3#32)
      ∧ decodeFsel ⟨0b011#3, 1#32, 2#32, 3#32⟩ = .ok (.f3 1#32 2#32 3#32)
      ∧ decodeFsel ⟨0b100#3, 1#32, 2#32, 3#32⟩ = .ok (.f4 1#32 2#32 3#32)
      ∧ decodeUseq 0b000000000#9 = .ok .decode ∧ decodeUseq 0b010010101#9 = .ok (.stepl 0b0010101#7)
      ∧ decodeUseq 0b101001111#9 = .ok (.stepr 79#7) ∧ decodeUseq 0b110000000#9 = .ok .combine := by decide

/-- V2.2: every row that decodes to an error. -/
theorem test_bus_errors :
    [0x214, 0x23C, 0x000, 0x080, 0x642, 0x680, 0x4F4, 0x2F8, 0x140, 0x700].all
      (fun t => decide (decodeBus ⟨BitVec.ofNat 11 t, 0#32⟩ = .error .busError)) = true := by decide

/-- R84, R89: 0x00000101 has RSV not 0. -/
theorem test_reserved_words :
    decodeCmd 0x00000101#32 = .error .reservedCommand ∧ decodeFsel ⟨0b101#3, 0#32, 0#32, 0#32⟩ = .error .reservedFsel
      ∧ decodeUseq 0b000000001#9 = .error .reservedUseq ∧ decodeUseq 0b011010000#9 = .error .reservedUseq := by decide

/-- R88, R80: the words of the table as the host numbers them, one of each format; no BUS word of the map is taken for a
micro-operation word. -/
theorem test_table_words :
    decodeTableWord 16 0x610 = some (.wr32H4 0#32) ∧ decodeTableWord 11 0x2F4 = some .rd32Status
      ∧ decodeTableWord 16 0x040 = some (.rd8Blk 0#6) ∧ decodeTableWord 32 1 = some .compress
      ∧ decodeTableWord 8 4 = some (.f4 0#32 0#32 0#32) ∧ decodeTableWord 16 0x1CF = none
      ∧ decodeTableWord 16 0x14F = some (.stepr 79#7) ∧ decodeTableWord 9 0x180 = some .combine := by decide

/-! ## Host accesses (V2.1, V2.3) -/

/-- V2.1 row 3. -/
theorem test_rd32_h2 :
    sees State.rsp .rd32H2 { State.reset with h := HFile.set HostSide.iv 2 0xDEADBEEF#32, hvalid := 0b00100#5 }
      = some (some ⟨0xDEADBEEF#32, false⟩) := by decide

/-- R112: a read takes the word of its own index, each of 0, 1, 3 and 4. -/
theorem test_rd32_each_h :
    (sees State.rsp .rd32H0 loaded, sees State.rsp .rd32H1 loaded, sees State.rsp .rd32H3 loaded,
      sees State.rsp .rd32H4 loaded)
      = (some (some ⟨0x67452301#32, false⟩), some (some ⟨0xEFCDAB89#32, false⟩), some (some ⟨0x10325476#32, false⟩),
        some (some ⟨0xC3D2E1F0#32, false⟩)) := by decide

/-- V2.1 row 3: HVALID[2] is STATUS[10]. -/
theorem test_wr32_h2 :
    sees (fun t => (t.h.h2, t.statusWord)) (.wr32H2 0xDEADBEEF#32) State.reset
      = some (0xDEADBEEF#32, 0x00000400#32) := by decide

/-- R113, R26: the other words, with STATUS[8], [9], [11] and [12]. -/
theorem test_wr32_each_h :
    (sees (fun t => (t.h.h0, t.statusWord)) (.wr32H0 7#32) State.reset,
      sees (fun t => (t.h.h1, t.statusWord)) (.wr32H1 7#32) State.reset,
      sees (fun t => (t.h.h3, t.statusWord)) (.wr32H3 7#32) State.reset,
      sees (fun t => (t.h.h4, t.statusWord)) (.wr32H4 7#32) State.reset)
      = (some (7#32, 0x100#32), some (7#32, 0x200#32), some (7#32, 0x800#32), some (7#32, 0x1000#32)) := by decide

/-- V2.1 row 12: `WDATA[31:8]` is ignored. -/
theorem test_wr8_blk63 :
    sees (fun t => (t.blkByte 63, t.bvalid)) (.wr8Blk 63#6 0x1FF#32) State.reset
      = some (0xFF#8, 0x8000000000000000#64) := by decide

/-- V2.1 row 6. -/
theorem test_wr32_blk0 :
    sees (fun t => (t.blk, t.bvalid, t.rsp)) (.wr32Blk 0#4 0x80636261#32) State.reset
      = some ([(0, 0x61#8), (1, 0x62#8), (2, 0x63#8), (3, 0x80#8)], 0xF#64, some ⟨0#32, false⟩) := by decide

/-- Log entry 17: writing the byte an unlisted one reads as removes the entry. -/
theorem test_wr8_zero_removes_the_entry :
    sees (fun t => (t.blk, t.hasByte 1)) (.wr8Blk 1#6 0#32) { State.reset with blk := [(0, 5#8), (1, 6#8), (2, 7#8)] }
      = some ([(0, 5#8), (2, 7#8)], true) := by decide

/-- V2.1 rows 5, 6 and 7: the block and CTRL read as 0. -/
theorem test_rd_blk_and_ctrl :
    (sees State.rsp (.rd8Blk 5#6) { ready with blk := [(5, 0xAA#8)] },
      sees State.rsp (.rd32Blk 1#4) { ready with blk := [(5, 0xAA#8)] }, sees State.rsp .rd32Ctrl ready)
      = (some (some ⟨0#32, false⟩), some (some ⟨0#32, false⟩), some (some ⟨0#32, false⟩)) := by decide

/-- V2.1 row 8, and R122's corner case while a COMPRESS is in flight (row 9). -/
theorem test_rd32_status :
    (sees State.rsp .rd32Status ready, sees State.rsp .rd32Status flight)
      = (some (some ⟨0x00001F40#32, false⟩), some (some ⟨0x00001F41#32, false⟩)) := by decide

/-- V2.1 row 11 and R121: writing ones clears no error bit. -/
theorem test_wr32_status :
    sees State.statusWord (.wr32Status 0xFFFFFFFF#32) { State.reset with errState := true } = some 0x8#32 := by decide

/-- V2.3 rows 6 and 7. -/
theorem test_wr32_ctrl_reserved :
    (sees State.statusWord (.wr32Ctrl 2#32) State.reset, sees State.statusWord (.wr32Ctrl 0x101#32) State.reset)
      = (some 0x10#32, some 0x10#32) := by decide

/-- V2.3 row 9, and R144: not even DONE changes. -/
theorem test_nop :
    (sees State.statusWord .nop loaded, sees State.done .nop { loaded with done := true })
      = (some 0x1F00#32, some true) := by decide

/-- V2.3 rows 1 to 4: which bits a refused COMPRESS sets. -/
theorem test_compress_refused :
    (sees State.statusWord .compress State.reset, sees State.statusWord .compress loaded,
      sees State.statusWord .compress { ready with hvalid := 0#5 },
      sees State.statusWord .compress { ready with hvalid := 0b01111#5 })
      = (some 0xC#32, some 0x1F04#32, some 0x48#32, some 0xF48#32) := by decide

/-- V2.1 row 9 and R236: a sticky error bit does not block a COMPRESS, and DONE is cleared. -/
theorem test_compress_accepted :
    sees (fun t => (t.statusWord, t.seq)) .compress { ready with errBlock := true, done := true }
      = some (0x1F45#32, .decode) := by decide

/-- R58: an access to H while BUSY is held. -/
theorem test_held_write : exec (.wr32H0 7#32) flight = .next flight := by rfl

/-! ## Round functions (V2.6 row 3 and row 6) and rotation (V2.7) -/

theorem test_f0_f1 :
    (sees State.fout (.f0 0x12345678#32 0x9ABCDEF0#32 0x0F1E2D3C#32) State.reset,
      sees State.fout (.f1 0x12345678#32 0x9ABCDEF0#32 0x0F1E2D3C#32) State.reset)
      = (some 0x8796A5B4#32, some 0x1F3E7F74#32) := by decide

theorem test_f2_f3 :
    (sees State.fout (.f2 0x12345678#32 0x9ABCDEF0#32 0x0F1E2D3C#32) State.reset,
      sees State.fout (.f3 0x12345678#32 0x9ABCDEF0#32 0x0F1E2D3C#32) State.reset)
      = (some 0x78695A43#32, some 0x92B4D6F8#32) := by decide

theorem test_f4 :
    (sees State.fout (.f4 0x12345678#32 0x9ABCDEF0#32 0x0F1E2D3C#32) State.reset,
      sees State.fout (.f4 0#32 0#32 0#32) State.reset) = (some 0xE8C9888B#32, some 0xFFFFFFFF#32) := by decide

theorem test_rotl32 :
    (rotl32 0x80000001#32 1, rotl32 0x12345678#32 15, rotl32 0x00000001#32 31, rotl32 0x98BADCFE#32 10)
      = (0x00000003#32, 0x2B3C091A#32, 0x80000000#32, 0xEB73FA62#32) := by decide

/-! ## Constant tables (V1.9, V2.5) -/

theorem test_table_sums :
    ((rlTable.map Fin.val).sum, (rrTable.map Fin.val).sum, slTable.sum, srTable.sum) = (600, 600, 800, 800) := by decide

/-- V2.5, rows j = 31 and j = 64. -/
theorem test_table_entries :
    (schedIndex .left 31, schedIndex .right 31, rotAmount .left 31, rotAmount .right 31, addConst .left 31,
        addConst .right 31, roundSel .left 31, roundSel .right 31)
      = (8, 2, 12, 11, 0x5A827999#32, 0x5C4DD124#32, .f1, .f3)
      ∧ (schedIndex .left 64, schedIndex .right 64, rotAmount .left 64, rotAmount .right 64, addConst .left 64,
        addConst .right 64, roundSel .left 64, roundSel .right 64)
      = (4, 12, 9, 8, 0xA953FD4E#32, 0x00000000#32, .f4, .f0) := ⟨rfl, rfl⟩

/-! ## Micro-operations (V2.4, V2.8, V2.10) -/

/-- V2.4 row 6 and row 1's first word: byte 4i is the least significant. -/
theorem test_decode_schedule :
    (sees (fun t => t.x.get 0) .decode { flight with blk := [(3, 0x80#8)] },
      sees (fun t => t.x.get 0) .decode { flight with blk := [(1, 1#8), (2, 2#8), (3, 3#8)] })
      = (some 0x80000000#32, some 0x03020100#32) := by decide

/-- R201, R207. -/
theorem test_decode_pipelines :
    sees (fun t => (t.left.a, t.right.e, t.jL, t.seq)) .decode { flight with jL := 5#7 }
      = some (0x67452301#32, 0xC3D2E1F0#32, 0#7, .rounds) := by decide

/-- V2.8, step 0 of the `abc` block from the IV. -/
theorem test_step0_abc :
    (pipeStep .left 0 (schedule abcByte) HostSide.iv.toQuint, pipeStep .right 0 (schedule abcByte) HostSide.iv.toQuint)
      = (⟨0xC3D2E1F0#32, 0x3115FC67#32, 0xEFCDAB89#32, 0xEB73FA62#32, 0x10325476#32⟩,
        ⟨0xC3D2E1F0#32, 0xDDD63FB8#32, 0xEFCDAB89#32, 0xEB73FA62#32, 0x10325476#32⟩) := by decide

/-- V2.8 rows 3 and 8. -/
theorem test_stepl_corners :
    (sees State.left (.stepl 79#7) (atStep (quint 0#32) 0#32),
      sees State.left (.stepl 16#7) (atStep (quint 0xFFFFFFFF#32) 0xFFFFFFFF#32))
      = (some ⟨0#32, 0x54FF536A#32, 0#32, 0#32, 0#32⟩,
        some ⟨0xFFFFFFFF#32, 0x413CCB2C#32, 0xFFFFFFFF#32, 0xFFFFFFFF#32, 0xFFFFFFFF#32⟩) := by decide

/-- R207: the last step leaves ROUNDS; R89: step 80 is refused. -/
theorem test_stepl_last :
    sees (fun t => (t.jL, t.seq)) (.stepl 79#7) (rounds 79#7 80#7) = some (80#7, .combine)
      ∧ exec (.stepl 80#7) State.reset = .refused .reservedUseq := ⟨by decide, rfl⟩

/-- V2.8 rows 5 and 12. -/
theorem test_stepr_corners :
    (sees State.right (.stepr 16#7) (atStep (quint 0#32) 0#32),
      sees State.right (.stepr 79#7) (atStep (quint 0xFFFFFFFF#32) 0xFFFFFFFF#32))
      = (some ⟨0#32, 0x9BA248B8#32, 0#32, 0#32, 0#32⟩,
        some ⟨0xFFFFFFFF#32, 0xFFFFEFFE#32, 0xFFFFFFFF#32, 0xFFFFFFFF#32, 0xFFFFFFFF#32⟩) := by decide

/-- R207: with a left step still to do the sequencer stays in ROUNDS. -/
theorem test_stepr_not_last :
    sees (fun t => (t.jR, t.seq)) (.stepr 79#7) (rounds 79#7 79#7) = some (80#7, .rounds) := by decide

/-- V2.10 row 1. -/
theorem test_combine_words :
    sees State.h .combine { combining with
        h := ⟨1#32, 2#32, 3#32, 4#32, 5#32⟩
        left := ⟨0x10#32, 0x20#32, 0x30#32, 0x40#32, 0x50#32⟩
        right := ⟨0x100#32, 0x200#32, 0x300#32, 0x400#32, 0x500#32⟩ }
      = some ⟨0x432#32, 0x543#32, 0x154#32, 0x215#32, 0x321#32⟩ := by decide

/-- V2.1 row 10: STATUS after a completion. -/
theorem test_combine_status :
    sees (fun t => (t.statusWord, t.seq)) .combine combining = some (0x1F02#32, .idle) := by decide

/-- V1.3: the transform of the padded `abc` block. -/
theorem test_compress_abc :
    compress HostSide.iv abcByte
      = ⟨0xF708B28E#32, 0x7A985DE0#32, 0x8E4A049B#32, 0x87B0C698#32, 0xFC0B5AF1#32⟩ := by decide +kernel

/-! ## Steps -/

/-- The rows of the table run as the first instruction after reset. -/
theorem test_step_runs_table_words :
    ((after (step (State.reset.withFetchWord 16 0x608))).map State.statusWord,
      (after (step (State.reset.withFetchWord 32 1))).map State.statusWord,
      (after (step (State.reset.withFetchWord 8 2))).map State.fout,
      (after (step (State.reset.withFetchWord 16 0x10F))).map State.jR)
      = (some 0x400#32, some 0xC#32, some 0xFFFFFFFF#32, some 16#7) := by decide

/-- V2.2 row 3, also while BUSY: ERR_BUS, an error response, and the COMPRESS in flight undisturbed. -/
theorem test_step_bus_error :
    (after (step { flight with req := some ⟨0x214#11, 0#32⟩ })).map (fun t => (t.statusWord, t.rsp, t.seq))
      = some (0x1F61#32, some ⟨0#32, true⟩, .decode) := by decide

/-- R58, R62: a held read of H0 waits while the sequencer goes on. -/
theorem test_step_hold :
    (after (step { flight with req := some readH0 })).map (fun t => (t.seq, t.req, t.rsp))
      = some (.rounds, some readH0, none) := by decide

/-- R260, R261: reset while BUSY. -/
theorem test_step_reset :
    (after (step { flight with rst := true, req := some readH0, errCmd := true })).map
        (fun t => (t.statusWord, t.seq, t.req, t.rst)) = some (0#32, .idle, none, false) := by decide

/-- R274: a run with a COMPRESS in flight, or with an access without its response, is not over; nor, by log entry 10, is one
with a reset raised. -/
theorem test_run_over :
    (runOver loaded, runOver flight, runOver { loaded with req := some readH0 }, runOver { loaded with rst := true })
      = (true, false, false, false) := by decide

/-! ## Every statement's hypotheses are met -/

theorem test_hyp_DecodeOfEncodeIsInstr : (Instr.stepl 79#7).wellFormed = true ∧ Instr.wellFormed (.wr8Blk 63#6 0#32) = true := by
  decide

theorem test_hyp_EncodeOfDecodeIsWord :
    decode (.useq 0b011001111#9) = .ok (.stepl 79#7) ∧ decode (.bus ⟨0b11001111100#11, 9#32⟩) = .ok (.wr32Blk 15#4 9#32) := by
  decide

theorem test_hyp_AccessDecodeSelectsTarget :
    decodeTarget 0b10#2 0x10#8 = some (.h 4) ∧ decodeTarget 0b00#2 0x40#8 = some (.blkByte 0#6)
      ∧ decodeTarget 0b00#2 0x7F#8 = some (.blkByte 63#6) ∧ decodeTarget 0b10#2 0x40#8 = some (.blkWord 0#4)
      ∧ decodeTarget 0b10#2 0x7C#8 = some (.blkWord 15#4) ∧ decodeTarget 0b10#2 0xF0#8 = some .ctrl
      ∧ decodeTarget 0b10#2 0xF4#8 = some .status ∧ decodeTarget 0b10#2 0x14#8 = none := by decide

/-- Selectors 0, 4, 5 and 7; step numbers 0, 1, 79, 80 and 127; command words 0, 1, 2 and the last. -/
theorem test_hyp_ReservedEncodingsAreRejected :
    (0b000#3).toNat = 0 ∧ (0b001#3).toNat = 1 ∧ (0b010#3).toNat = 2 ∧ (0b011#3).toNat = 3 ∧ (0b100#3).toNat = 4
      ∧ 5 ≤ (0b101#3).toNat ∧ 5 ≤ (0b111#3).toNat ∧ (0#7).toNat < 80 ∧ (79#7).toNat < 80 ∧ 80 ≤ (80#7).toNat
      ∧ 80 ≤ (127#7).toNat ∧ (0#7).toNat = 0 ∧ (1#7).toNat ≠ 0 ∧ (0#32).toNat = 0 ∧ (1#32).toNat = 1
      ∧ 2 ≤ (2#32).toNat ∧ 2 ≤ (0xFFFFFFFF#32).toNat := by decide

theorem test_hyp_ReadStateWord :
    State.reset.busy = false ∧ State.reset.hasH 4 = false ∧ loaded.busy = false ∧ loaded.hasH 0 = true
      ∧ loaded.hasH 4 = true ∧ flight.busy = true := by decide

theorem test_hyp_WriteStateWord : State.reset.busy = false ∧ (1 : Fin 5) ≠ 0 ∧ flight.busy = true := by decide

theorem test_hyp_WriteBlockByte :
    MemoryOk ready ∧ ready.busy = false ∧ 0 ≠ (63#6).toNat ∧ MemoryOk flight ∧ flight.busy = true := by decide

/-- Lanes 0 and 3, and the bytes just below word 15 and just above word 0. -/
theorem test_hyp_WriteBlockWord :
    MemoryOk ready ∧ ready.busy = false ∧ 0 < 4 ∧ 3 < 4 ∧ 59 < 4 * (15#4).toNat ∧ 4 * (0#4).toNat + 4 ≤ 4
      ∧ MemoryOk flight ∧ flight.busy = true := by decide

theorem test_hyp_BlockWritesKeepCanonicalForm : MemoryOk ready ∧ MemoryOk flight := by decide

theorem test_hyp_WordWriteIsFourByteWrites :
    ready.busy = false ∧ (0x161#32).extractLsb' 0 8 = (0x80636261#32).extractLsb' 0 8
      ∧ (0x62#32).extractLsb' 0 8 = (0x80636261#32).extractLsb' 8 8
      ∧ (0x63#32).extractLsb' 0 8 = (0x80636261#32).extractLsb' 16 8
      ∧ (0x80#32).extractLsb' 0 8 = (0x80636261#32).extractLsb' 24 8 := by decide

theorem test_hyp_BlockAndControlReadsAnswerZero : ready.busy = false ∧ flight.busy = true := by decide

/-- BLK_FULL 1 and 0, and the bounds of the reserved bits. -/
theorem test_hyp_StatusReadAnswersEveryField :
    (sees State.rsp .rd32Status { ready with errBus := true }).isSome = true ∧ ready.blkFull = true ∧ loaded.blkFull = false
      ∧ 63 < 64 ∧ 13 ≤ 13 ∧ 13 ≤ 31 ∧ InputsHeld flight ∧ flight.busy = true := by decide

theorem test_hyp_ControlWriteRunsCommand :
    (0#32).toNat = 0 ∧ (1#32).toNat = 1 ∧ 2 ≤ (2#32).toNat ∧ Cause.bus ≠ .cmd ∧ ready.busy = false ∧ flight.busy = true := by
  decide

theorem test_hyp_NopChangesNothing : ready.busy = false ∧ flight.busy = true := by decide

/-- Inputs complete; only H4 missing; only byte 63 missing. -/
theorem test_hyp_CompressChecksInputsAndStarts :
    ready.busy = false ∧ (∀ i, ready.hasH i = true) ∧ (∀ n, n < 64 → ready.hasByte n = true)
      ∧ (∃ i, ({ ready with hvalid := 0b01111#5 } : State).hasH i = false)
      ∧ (∃ n, n < 64 ∧ ({ ready with bvalid := 0x7FFFFFFFFFFFFFFF#64 } : State).hasByte n = false)
      ∧ flight.busy = true :=
  ⟨by decide, by decide, by decide, ⟨4, by decide⟩, ⟨63, by decide⟩, by decide⟩

theorem test_hyp_HeldAccessChangesNothing :
    (Instr.rd32H0).holdable = true ∧ (Instr.wr32Blk 15#4 0#32).holdable = true ∧ (Instr.compress).holdable = true
      ∧ flight.busy = true := by decide

theorem test_hyp_RoundFunctionsMatchTruthTable : 0 < 32 ∧ 31 < 32 := by decide

theorem test_hyp_RoundFunctionUnitAnswers :
    Instr.f0 1#32 2#32 3#32 = .f0 1#32 2#32 3#32 ∧ (0#32 : Word) = 1#32 ^^^ 2#32 ^^^ 3#32
      ∧ (2#32 : Word) = (1#32 &&& 2#32) ||| (~~~1#32 &&& 3#32) ∧ (0xFFFFFFFE#32 : Word) = (1#32 ||| ~~~2#32) ^^^ 3#32
      ∧ (1#32 : Word) = (1#32 &&& 3#32) ||| (2#32 &&& ~~~3#32) ∧ (0xFFFFFFFF#32 : Word) = 1#32 ^^^ (2#32 ||| ~~~3#32) := by
  decide

theorem test_hyp_DecodeLoadsPipelines : flight.seq = .decode := by decide

/-- Steps 0 and 79, from ROUNDS. -/
theorem test_hyp_LeftStepComputesQuintuple :
    (0#7).toNat < 80 ∧ (79#7).toNat < 80 ∧ (rounds 79#7 80#7).seq = .rounds := by decide

theorem test_hyp_RightStepComputesQuintuple :
    (0#7).toNat < 80 ∧ (79#7).toNat < 80 ∧ (rounds 80#7 79#7).seq = .rounds := by decide

theorem test_hyp_OutOfPhaseMicroOpLeavesPhase :
    ready.seq ≠ .decode ∧ ready.seq ≠ .rounds ∧ combining.seq ≠ .rounds ∧ (79#7).toNat < 80 := by decide

theorem test_hyp_ReservedStepIsRefused : 80 ≤ (80#7).toNat ∧ 80 ≤ (127#7).toNat := by decide

/-- The first and the last entry of group 0, and of the later groups. -/
theorem test_hyp_ConstantTablesAreTheSpecs : 0 < 16 ∧ 15 < 16 ∧ 0 < 64 ∧ 63 < 64 := by decide

theorem test_hyp_RotationIsCircular : 0 < 80 ∧ 79 < 80 ∧ 0 < 1 ∧ 31 < 32 ∧ 0 < 32 := by decide

theorem test_hyp_GroupReadsEveryWordOnce : schedIndex .right (16 * (4 : Fin 5).val + (15 : Fin 16).val) = 11 := by decide

theorem test_hyp_LeftAndRightStepsCommute :
    (rounds 79#7 79#7).jL.toNat < 80 ∧ (rounds 79#7 79#7).jR.toNat < 80 := by decide

theorem test_hyp_CompressDependsOnBlockBytes :
    ∀ n, n < 64 → (fun _ => 0#8 : Nat → Byte) n = (fun k => if k < 64 then 0#8 else 1#8 : Nat → Byte) n := by decide

/-- A read of H0 with BUSY 0, a STATUS read while BUSY, a selector, and each phase of the sequencer with nothing else able to
move: no transaction, and a held one with a further access behind it. -/
theorem test_hyp_StepRunsTheDecodedInstruction :
    (State.reset.rst = false ∧ State.reset.fsel = none ∧ decodeBus readH0 = .ok .rd32H0 ∧ State.reset.busy = false
      ∧ decodeBus ⟨0x2F4#11, 0#32⟩ = .ok .rd32Status ∧ (Instr.rd32Status).holdable = false
      ∧ decodeFsel ⟨4#3, 1#32, 2#32, 3#32⟩ = .ok (.f4 1#32 2#32 3#32) ∧ flight.seq = .decode
      ∧ (rounds 79#7 80#7).seq = .rounds ∧ (rounds 79#7 80#7).jL.toNat < 80 ∧ 80 ≤ (rounds 79#7 80#7).jR.toNat
      ∧ 80 ≤ (rounds 80#7 0#7).jL.toNat ∧ (rounds 80#7 0#7).jR.toNat < 80 ∧ (rounds 0#7 79#7).jL.toNat < 80
      ∧ (rounds 0#7 79#7).jR.toNat < 80 ∧ combining.seq = .combine)
      ∧ EngineAlone flight ∧ EngineAlone (rounds 79#7 80#7) ∧ EngineAlone (rounds 80#7 0#7) ∧ EngineAlone (rounds 0#7 79#7)
      ∧ EngineAlone combining ∧ EngineAlone { flight with req := some readH0, host := [.access writeH1] } :=
  ⟨by decide, ⟨rfl, rfl, rfl, .inl rfl⟩, ⟨rfl, rfl, rfl, .inl rfl⟩, ⟨rfl, rfl, rfl, .inl rfl⟩, ⟨rfl, rfl, rfl, .inl rfl⟩,
    ⟨rfl, rfl, rfl, .inl rfl⟩, ⟨rfl, rfl, rfl, .inr ⟨readH0, .rd32H0, rfl, by decide, rfl, rfl⟩⟩⟩

/-- An access that decodes, and one that is a bus error. -/
theorem test_hyp_HostAccessIsPresentedInOrder :
    ready.rst = false ∧ ready.fsel = none ∧ ready.req = none ∧ ready.seq = .idle ∧ ready.busy = false
      ∧ ({ ready with host := [.access readH0, .reset] } : State).host = .access readH0 :: [.reset]
      ∧ decodeBus readH0 = .ok .rd32H0 ∧ decodeBus ⟨0x214#11, 0#32⟩ = .error .busError := by decide

theorem test_hyp_AccessMayFallOnEitherSideOfCompletion :
    combining.rst = false ∧ combining.fsel = none ∧ combining.req = none ∧ combining.seq = .combine
      ∧ ({ combining with host := [.access readH0] } : State).host = .access readH0 :: [] := by decide

/-- Each of the rule's cases, at the ends of its ranges. -/
theorem test_hyp_BusErrorIsAnsweredAtOnce :
    flight.rst = false ∧ flight.fsel = none ∧ ({ flight with req := some ⟨0x214#11, 0#32⟩ } : State).req = some ⟨0x214#11, 0#32⟩
      ∧ (BusReq.sizeCode ⟨0x140#11, 0#32⟩).toNat = 1 ∧ (BusReq.sizeCode ⟨0x700#11, 0#32⟩).toNat = 3
      ∧ (BusReq.sizeCode ⟨0x214#11, 0#32⟩).toNat = 2 ∧ 0x14 ≤ (BusReq.offset ⟨0x214#11, 0#32⟩).toNat
      ∧ (BusReq.offset ⟨0x23F#11, 0#32⟩).toNat ≤ 0x3F ∧ 0x80 ≤ (BusReq.offset ⟨0x680#11, 0#32⟩).toNat
      ∧ (BusReq.offset ⟨0x6EF#11, 0#32⟩).toNat ≤ 0xEF ∧ 0xF8 ≤ (BusReq.offset ⟨0x2F8#11, 0#32⟩).toNat
      ∧ (BusReq.sizeCode ⟨0x080#11, 0#32⟩).toNat = 0 ∧ ¬(BusReq.offset ⟨0x080#11, 0#32⟩).toNat ≤ 0x7F
      ∧ ¬0x40 ≤ (BusReq.offset ⟨0x03F#11, 0#32⟩).toNat ∧ (BusReq.offset ⟨0x642#11, 0#32⟩).toNat % 4 ≠ 0 := by decide

theorem test_hyp_ResetEventClearsEngine : ({ flight with rst := true } : State).rst = true := by decide

theorem test_hyp_StepKeepsMemoryCanonical : MemoryOk flight ∧ step flight = .next flight.loadPipelines.afterDecode :=
  ⟨by decide, rfl⟩

/-- The invariant in IDLE, in DECODE and in ROUNDS, and a step from each of the first two. -/
theorem test_hyp_StepKeepsEngineInv :
    EngineInv ready ∧ step ready = .next ready ∧ EngineInv flight
      ∧ step flight = .next flight.loadPipelines.afterDecode ∧ EngineInv (rounds 0#7 0#7) :=
  ⟨by decide, rfl, by decide, rfl, by decide⟩

theorem test_hyp_ErrorBitsAreSticky :
    step { flight with errBus := true } = .next ({ flight with errBus := true } : State).loadPipelines.afterDecode
      ∧ ({ flight with errBus := true } : State).errBit .bus = true ∧ flight.rst = false := ⟨rfl, rfl, rfl⟩

theorem test_hyp_StateValidBitsAreClearedOnlyByReset :
    flight.rst = false ∧ step flight = .next flight.loadPipelines.afterDecode ∧ flight.hasH 4 = true :=
  ⟨rfl, rfl, by decide⟩

/-- A host write of H1, and COMBINE. -/
theorem test_hyp_StateWordsChangeOnlyByHostOrCombine :
    step { ready with req := some writeH1 } = .next (({ ready with req := some writeH1 } : State).writeH 1 7#32).ack
      ∧ (({ ready with req := some writeH1 } : State).writeH 1 7#32).ack.h.get 1 ≠ ready.h.get 1
      ∧ step combining = .next (combining.combineState.enter .idle) ∧ step combining = exec .combine combining
      ∧ combining.rst = false ∧ (combining.combineState.enter .idle).h.get 0 ≠ combining.h.get 0 :=
  ⟨rfl, by decide, rfl, rfl, rfl, by decide⟩

/-- A step that is not COMBINE, and COMBINE. -/
theorem test_hyp_InputsAreImmutableInFlight :
    flight.busy = true ∧ flight.rst = false ∧ step flight = .next flight.loadPipelines.afterDecode
      ∧ combining.busy = true ∧ combining.rst = false ∧ step combining = .next (combining.combineState.enter .idle) :=
  ⟨rfl, rfl, rfl, rfl, rfl, rfl⟩

/-- No transaction, and a held read of H0. -/
theorem test_hyp_MicroSequenceComputesCompress :
    EngineAlone flight ∧ flight.busy = true ∧ flight.seq = .decode ∧ EngineAlone { flight with req := some readH0 } :=
  ⟨⟨rfl, rfl, rfl, .inl rfl⟩, rfl, rfl, ⟨rfl, rfl, rfl, .inr ⟨readH0, .rd32H0, rfl, by decide, rfl, rfl⟩⟩⟩

/-- With no further event, and with further accesses behind the held one. -/
theorem test_hyp_HeldAccessIsPerformedAfterCompletion :
    ({ flight with req := some readH0 } : State).req = some readH0 ∧ flight.rst = false ∧ flight.fsel = none
      ∧ flight.host = [] ∧ flight.busy = true ∧ flight.seq = .decode ∧ decodeBus readH0 = .ok (rd32H 0)
      ∧ (rd32H 0).holdable = true
      ∧ ({ flight with host := [.access writeH1, .reset] } : State).host = .access writeH1 :: [.reset] := by decide

/-- A host with a held access and a STATUS poll still to issue, and a silent one. -/
theorem test_hyp_EveryCompressInFlightCompletes :
    EngineInv flight ∧ EngineInv (rounds 0#7 0#7) ∧ flight.rst = false ∧ flight.fsel = none ∧ flight.busy = true
      ∧ EngineInv { flight with host := [.access ⟨0x2F4#11, 0#32⟩, .access readH0] }
      ∧ (∀ e, e ∈ [HostEvent.access ⟨0x2F4#11, 0#32⟩, .access readH0] → e ≠ .reset) ∧ EngineAlone flight :=
  ⟨by decide, by decide, rfl, rfl, rfl, by decide, by decide, ⟨rfl, rfl, rfl, .inl rfl⟩⟩

theorem test_hyp_ControlIsDataIndependent :
    flight.rst = false ∧ flight.fsel = none ∧ flight.req = none ∧ flight.host = [] := by decide

theorem test_hyp_BlockIsNeverObservable :
    decodeBus ⟨0x045#11, 0#32⟩ = .ok (.rd8Blk 5#6) ∧ exec (.rd8Blk 5#6) ready = .next (ready.answer 0#32 false) :=
  ⟨by decide, rfl⟩

theorem test_hyp_WindowsAndEnginesAreSeparate :
    platformStep 0 [ready, flight] = .next [ready, flight] ∧ 1 ≠ 0 := ⟨rfl, by decide⟩

theorem test_hyp_StepsOfTwoEnginesCommute :
    platformStep 0 [ready, flight] = .next [ready, flight]
      ∧ platformStep 1 [ready, flight] = .next [ready, flight.loadPipelines.afterDecode] ∧ 0 ≠ 1 := ⟨rfl, rfl, by decide⟩

/-- A platform after reset, and one of two engines with their numbers, of which one steps. -/
theorem test_hyp_PlatformKeepsItsEngines :
    platformReset[0]? = some State.reset
      ∧ (∀ (k : Nat) (s : State), ([ready, { flight with engine := 1 }] : List State)[k]? = some s → s.engine = k)
      ∧ platformStep 0 [ready, { flight with engine := 1 }] = .next [ready, { flight with engine := 1 }] := by
  refine ⟨by simp [platformReset, Config.nEngines, List.range_succ_eq_map]; rfl, ?_, rfl⟩
  rintro (_ | _ | k) s h <;> simp at h <;> subst h <;> rfl

/-- The first and the last zero byte of the empty message's padding, and the ends of the length field. -/
theorem test_hyp_PaddingFillsWholeBlocks :
    0 < 1 ∧ 1 + 8 < (HostSide.pad []).length ∧ 55 + 8 < (HostSide.pad []).length ∧ 0 < 8 ∧ 7 < 8 := by decide

end Sys2Proof.Tests
end

section
/-! SUPPORT. The rotation of 00_scope.md R8: `rotl32` is the library's rotation, and so the circular one. -/

namespace Sys2Proof.Machine

/-- R8: below the word's width, `rotl32` is the library's left rotation. -/
theorem rotl32_eq_rotateLeft (v : Word) {n : Nat} (hn : n < 32) : rotl32 v n = v.rotateLeft n := by
  rw [BitVec.rotateLeft_def, Nat.mod_eq_of_lt hn, rotl32]

/-- R8: bit k of the result is the word's bit n places below, counted around the word's end. -/
theorem rotl32_getLsbD (v : Word) {n k : Nat} (hn : n < 32) (hk : k < 32) :
    (rotl32 v n).getLsbD k = v.getLsbD ((k + 32 - n) % 32) := by
  rw [rotl32_eq_rotateLeft v hn, BitVec.getLsbD_rotateLeft, Nat.mod_eq_of_lt hn]
  by_cases hkn : k < n
  · have hwrap : (k + 32 - n) % 32 = 32 - n + k := by omega
    simp [hkn, hwrap]
  · have hshift : (k + 32 - n) % 32 = k - n := by omega
    simp [hkn, hk, hshift]

/-- Settles O27: the tables' amounts lie in 5..15 (R177), and `rotl32` is the library's rotation below 32. -/
theorem rotationIsCircular : Obligations.RotationIsCircular := by
  refine ⟨fun side j hj => ?_, fun v n k _ hn hk => rotl32_getLsbD v hn hk⟩
  obtain ⟨hlow, hhigh⟩ := rotAmount_range side hj
  omega

end Sys2Proof.Machine
end

section
/-! SUPPORT. The inputs of a COMPRESS, which are H, BLK and their valid bits (10_state.md R21 to R25): what one step can
do to them, said once; and the statements about the block buffer's form, the valid bits and the state words. -/

namespace Sys2Proof.Machine

/-- The state words, the block buffer as data, and the valid bits of both are the same. -/
structure SameInputs (s t : State) : Prop where
  h : t.h = s.h
  hvalid : t.hvalid = s.hvalid
  blk : t.blk = s.blk
  bvalid : t.bvalid = s.bvalid

/-- Everything one step can do to the inputs of a COMPRESS. -/
inductive InputStep (s t : State) : Prop where
  /-- R260. -/
  | reset (hr : s.rst = true) (ht : t = s.resetEvent)
  /-- The step reads the inputs at most. -/
  | kept (hk : SameInputs s t)
  /-- R111: a host access is performed. -/
  | access (r : BusReq) (i : Instr) (hq : s.req = some r) (hd : decodeBus r = .ok i) (ht : exec i s = .next t)
      (ha : AccessTo s t)
  /-- R143: the sequencer issues COMBINE. -/
  | combine (hs : s.seq = .combine) (hx : step s = exec .combine s) (ht : t = s.combineState.enter .idle)

theorem outsideMove_sameInputs {s t : State} (h : outsideMove s = some t) : SameInputs s t := by
  rcases outsideMove_some h with ⟨rest, -, rfl⟩ | ⟨r, rest, -, -, rfl⟩ <;> exact ⟨rfl, rfl, rfl, rfl⟩

/-- Only reset, a host access and COMBINE can change an input. -/
theorem step_inputs {s t : State} (h : step s = .next t) : InputStep s t := by
  cases step_cases h with
  | reset hr ht => exact .reset hr ht
  | select f i hr hf hd ht =>
    obtain ⟨w, hw⟩ := exec_select hd s
    rw [hw] at ht; cases ht
    exact .kept ⟨rfl, rfl, rfl, rfl⟩
  | access r i hr hf hq hd hb ht => exact .access r i hq hd ht (exec_access hd hb ht)
  | busError r e hr hf hq hd ht => subst ht; exact .kept ⟨rfl, rfl, rfl, rfl⟩
  | decode hr hs ht => cases ht; exact .kept ⟨rfl, rfl, rfl, rfl⟩
  | stepl hr hs hj ht => obtain ⟨-, rfl⟩ := microStep_next ht; exact .kept ⟨rfl, rfl, rfl, rfl⟩
  | stepr hr hs hj ht => obtain ⟨-, rfl⟩ := microStep_next ht; exact .kept ⟨rfl, rfl, rfl, rfl⟩
  | leave hr hs hj hk ht => subst ht; exact .kept ⟨rfl, rfl, rfl, rfl⟩
  | combine hr hs ht => exact .combine hs (h.trans ht.symm) (by cases ht; rfl)
  | outside hr ho => exact .kept (outsideMove_sameInputs ho)
  | idle hr hs ho ht => subst ht; exact .kept ⟨rfl, rfl, rfl, rfl⟩

/-- R112: a read of a state word changes no input, whether it answers the word or a draw. -/
theorem readH_sameInputs (s : State) (i : Fin 5) : SameInputs s (s.readH i) := by
  rcases s.readH_cases i with ⟨-, h⟩ | ⟨-, h⟩ <;> rw [h] <;> exact ⟨rfl, rfl, rfl, rfl⟩

/-- R119: a command changes no input. -/
theorem command_sameInputs (s : State) (c : Command) : SameInputs s (s.command c) := by
  cases c <;> exact ⟨rfl, rfl, rfl, rfl⟩

/-! ### The block buffer's canonical form (log entry 17) -/

theorem accessTo_memoryOk {s t : State} (ha : AccessTo s t) (hm : MemoryOk s) : MemoryOk t := by
  cases ha with
  | readH i hb ht => rw [ht, MemoryOk, (readH_sameInputs s i).blk]; exact hm
  | answered w ht => subst ht; exact hm
  | writeH i v hb ht => subst ht; exact hm
  | writeByte n b hb ht => subst ht; exact State.writeByte_wf hm n.isLt b
  | writeBlkWord i v hb ht => subst ht; exact State.writeBlkWord_wf hm i v
  | compress hb ht => subst ht; exact hm
  | reserved hb ht => subst ht; exact hm

/-- Settles O40: of all that a step can do to the inputs, only the block writes and the reset event touch the buffer. -/
theorem stepKeepsMemoryCanonical : Obligations.StepKeepsMemoryCanonical := by
  intro s t hm h
  cases step_inputs h with
  | reset hr ht => subst ht; exact Memory.wf_nil
  | kept hk => rw [MemoryOk, hk.blk]; exact hm
  | access r i hq hd ht ha => exact accessTo_memoryOk ha hm
  | combine hs hx ht => subst ht; exact hm

/-- R58: a held or performed access leaves the canonical form if what it performs does. -/
theorem access_memoryOk {s p : State} (hs : MemoryOk s) (hp : MemoryOk p) :
    ∃ t, access s p = .next t ∧ MemoryOk t := by
  cases hb : s.busy with
  | true => exact ⟨s, access_busy hb p, hs⟩
  | false => exact ⟨p, access_free hb p, hp⟩

/-- Settles O54: both writes are accesses that write bytes of the buffer, one or four. -/
theorem blockWritesKeepCanonicalForm : Obligations.BlockWritesKeepCanonicalForm := by
  intro n i w s hm
  obtain ⟨t, ht, hmt⟩ := access_memoryOk (p := (s.writeByte n.toNat (lane w 0)).ack) hm
    (State.writeByte_wf hm n.isLt (lane w 0))
  obtain ⟨u, hu, hmu⟩ := access_memoryOk (p := (s.writeBlkWord i w).ack) hm (State.writeBlkWord_wf hm i w)
  exact ⟨t, u, ht, hmt, hu, hmu⟩

/-! ### The valid bits of the state words (R22) -/

theorem accessTo_hasH {s t : State} (ha : AccessTo s t) {k : Fin 5} (hk : s.hasH k = true) : t.hasH k = true := by
  cases ha with
  | readH i hb ht => rw [ht, State.hasH, (readH_sameInputs s i).hvalid]; exact hk
  | answered w ht => subst ht; exact hk
  | writeH i v hb ht => subst ht; simp [hk]
  | writeByte n b hb ht => subst ht; exact hk
  | writeBlkWord i v hb ht => subst ht; exact hk
  | compress hb ht => subst ht; exact hk
  | reserved hb ht => subst ht; exact hk

/-- Settles O43: an access only sets valid bits of H, and COMBINE sets all five. -/
theorem stateValidBitsAreClearedOnlyByReset : Obligations.StateValidBitsAreClearedOnlyByReset := by
  intro s t k hr h hk
  cases step_inputs h with
  | reset hr' ht => rw [hr] at hr'; cases hr'
  | kept hk' => rw [State.hasH, hk'.hvalid]; exact hk
  | access r i hq hd ht ha => exact accessTo_hasH ha hk
  | combine hs hx ht => subst ht; exact (State.stateOk_iff _).mp rfl k

/-! ### The state words (R21) -/

/-- R82: the write instruction of a state word's target. -/
theorem writeInstr_h (v : Word) (k : Fin 5) : writeInstr v (.h k) = wr32H v k := by
  revert k; simp only [Fin.forall_fin_succ]; exact ⟨rfl, rfl, rfl, rfl, rfl, nofun⟩

/-- R111: an access that performs nothing on H leaves it as it was, held or not. -/
theorem access_h {s p t : State} (h : access s p = .next t) (hp : p.h = s.h) : t.h = s.h := by
  rcases access_next h with ⟨-, rfl⟩ | ⟨-, rfl⟩
  · rfl
  · exact hp

/-- The read of any target leaves the state words as they were. -/
theorem exec_readInstr_h {tgt : Target} {s t : State} (ht : exec (readInstr tgt) s = .next t) : t.h = s.h := by
  rw [exec_readInstr] at ht
  cases tgt with
  | h k => exact access_h ht (readH_sameInputs s k).h
  | blkByte n => exact access_h ht rfl
  | blkWord i => exact access_h ht rfl
  | ctrl => exact access_h ht rfl
  | status => cases ht; rfl

/-- The write of a target leaves the state words as they were, unless it is performed on a state word. -/
theorem exec_writeInstr_h {v : Word} {tgt : Target} {s t : State} (ht : exec (writeInstr v tgt) s = .next t) :
    t.h = s.h ∨ ∃ k, tgt = .h k ∧ s.busy = false ∧ t = (s.writeH k v).ack := by
  rw [exec_writeInstr] at ht
  cases tgt with
  | h k =>
    rcases access_next ht with ⟨-, rfl⟩ | ⟨hb, rfl⟩
    · exact .inl rfl
    · exact .inr ⟨k, rfl, hb, rfl⟩
  | blkByte n => exact .inl (access_h ht rfl)
  | blkWord i => exact .inl (access_h ht rfl)
  | ctrl => exact .inl (access_h ht (command_sameInputs s (commandOf v)).h)
  | status => cases ht; exact .inl rfl

/-- R113: a transaction that changes a state word is the write of that word, made while BUSY is 0. -/
theorem decoded_changes_h {r : BusReq} {i : Instr} {s t : State} {k : Fin 5} (hd : decodeBus r = .ok i)
    (ht : exec i s = .next t) (hne : t.h.get k ≠ s.h.get k) :
    s.busy = false ∧ ∃ v, i = wr32H v k ∧ t.h.get k = v := by
  obtain ⟨tgt, -, rfl⟩ := decodeBus_ok hd
  by_cases hw : r.isWrite = true
  · rw [if_pos hw] at ht ⊢
    rcases exec_writeInstr_h ht with hh | ⟨j, rfl, hb, rfl⟩
    · exact absurd (by rw [hh]) hne
    · have hjk : j = k := by
        by_contra hjk
        exact hne (by simp [hjk])
      subst hjk
      exact ⟨hb, r.wdata, writeInstr_h r.wdata j, by simp⟩
  · rw [if_neg hw] at ht
    exact absurd (by rw [exec_readInstr_h ht]) hne

/-- Settles O44: a host access changes a state word only as the write of that word, and the one other step outside reset
that writes H is COMBINE. -/
theorem stateWordsChangeOnlyByHostOrCombine : Obligations.StateWordsChangeOnlyByHostOrCombine := by
  intro s t k hr h hne
  cases step_inputs h with
  | reset hr' ht => rw [hr] at hr'; cases hr'
  | kept hk => exact absurd (by rw [hk.h]) hne
  | access r i hq hd ht ha =>
    obtain ⟨hb, v, rfl, hv⟩ := decoded_changes_h hd ht hne
    exact .inl ⟨hb, r, v, hq, hd, hv⟩
  | combine hs hx ht => exact .inr ⟨hs, hx⟩

/-! ### The inputs of a COMPRESS in flight (R24, R58) -/

/-- The same inputs in the terms the statements use, byte by byte and word by word. -/
theorem SameInputs.bytes_and_words {s t : State} (hk : SameInputs s t) :
    (∀ n, t.blkByte n = s.blkByte n) ∧ SameH s t ∧ t.bvalid = s.bvalid :=
  ⟨fun n => by rw [State.blkByte, hk.blk, State.blkByte], ⟨fun i => by rw [hk.h], hk.hvalid⟩, hk.bvalid⟩

/-- R58: an access performed while BUSY changes no input: it is answered and nothing else. -/
theorem accessTo_sameInputs_of_busy {s t : State} (ha : AccessTo s t) (hb : s.busy = true) : SameInputs s t := by
  cases ha with
  | answered w ht => subst ht; exact ⟨rfl, rfl, rfl, rfl⟩
  | readH i hf ht | writeH i v hf ht | writeByte n b hf ht | writeBlkWord i v hf ht | compress hf ht | reserved hf ht =>
    rw [hb] at hf; cases hf

/-- Settles O45: while BUSY an access that is not held is only answered, so that COMBINE alone reaches the inputs. -/
theorem inputsAreImmutableInFlight : Obligations.InputsAreImmutableInFlight := by
  intro s t hb hr h
  cases step_inputs h with
  | reset hr' ht => rw [hr] at hr'; cases hr'
  | kept hk => exact ⟨hk.bytes_and_words.1, .inl hk.bytes_and_words.2⟩
  | access r i hq hd ht ha =>
    have hk := accessTo_sameInputs_of_busy ha hb
    exact ⟨hk.bytes_and_words.1, .inl hk.bytes_and_words.2⟩
  | combine hs hx ht => subst ht; exact ⟨fun _ => rfl, .inr ⟨hs, hx⟩⟩

end Sys2Proof.Machine
end

section
/-! SUPPORT. The engine's invariant (10_state.md R30, 40_host_interface.md R122, 45_pipelines.md R206, R208): each kind of
step keeps it, and it holds after reset. -/

namespace Sys2Proof.Machine

/-- The part of the state that the engine's invariant speaks of; the error bits, the ports, the outside world and the
counters of the free values are put to their reset values. -/
def State.datapath (s : State) : State :=
  { State.reset with
    h := s.h, hvalid := s.hvalid, blk := s.blk, bvalid := s.bvalid, busy := s.busy, done := s.done, x := s.x
    left := s.left, right := s.right, seq := s.seq, jL := s.jL, jR := s.jR }

/-- The invariant reads nothing outside the datapath. -/
theorem engineInv_of_datapath {s t : State} (h : t.datapath = s.datapath) (hi : EngineInv s) : EngineInv t :=
  show EngineInv t.datapath from h ▸ hi

theorem readH_datapath (s : State) (i : Fin 5) : (s.readH i).datapath = s.datapath := by
  rcases s.readH_cases i with ⟨-, h⟩ | ⟨-, h⟩ <;> rw [h] <;> rfl

theorem outsideMove_datapath {s t : State} (h : outsideMove s = some t) : t.datapath = s.datapath := by
  rcases outsideMove_some h with ⟨rest, -, rfl⟩ | ⟨r, rest, -, -, rfl⟩ <;> rfl

/-- With no COMPRESS in flight the invariant asks only for the block buffer's form. -/
theorem engineInv_of_idle {s : State} (hm : MemoryOk s) (hb : s.busy = false) (hs : s.seq = .idle) : EngineInv s :=
  ⟨hm, ⟨by simp [hb, hs], by simp [hs], by simp [hs]⟩, by simp [hb], by simp [hs]⟩

/-- R30: while BUSY is 0 the sequencer is IDLE. -/
theorem seq_idle_of_free {s : State} (hp : PhaseOk s) (hb : s.busy = false) : s.seq = .idle := by
  by_contra hs
  rw [hp.1.mpr hs] at hb; cases hb

/-- R140: issuing a COMPRESS while BUSY is 0 starts it with every input valid and DONE 0, or leaves the engine idle. -/
theorem engineInv_issueCompress {s : State} (hi : EngineInv s) (hb : s.busy = false) : EngineInv s.issueCompress := by
  obtain ⟨hm, hp, -, -⟩ := hi
  cases hok : s.inputsOk with
  | false => exact engineInv_of_idle hm (by simp [hb, hok]) (by simp [hok, seq_idle_of_free hp hb])
  | true =>
    obtain ⟨hst, hbl⟩ : s.stateOk = true ∧ s.blkFull = true := by simpa [State.inputsOk] using hok
    exact ⟨hm, by simp [PhaseOk, hok], by simp [InputsHeld, hst, hbl], by simp [FlightOk, hok]⟩

/-- Every host access keeps the invariant: what writes an input is performed only while no COMPRESS is in flight. -/
theorem accessTo_engineInv {s t : State} (ha : AccessTo s t) (hi : EngineInv s) : EngineInv t := by
  have hm : MemoryOk t := accessTo_memoryOk ha hi.1
  have hidle : s.busy = false → s.seq = .idle := seq_idle_of_free hi.2.1
  cases ha with
  | readH i hb ht => rw [ht]; exact engineInv_of_datapath (readH_datapath s i) hi
  | answered w ht => rw [ht]; exact engineInv_of_datapath rfl hi
  | writeH i v hb ht => subst ht; exact engineInv_of_idle hm hb (hidle hb)
  | writeByte n b hb ht => subst ht; exact engineInv_of_idle hm hb (hidle hb)
  | writeBlkWord i v hb ht => subst ht; exact engineInv_of_idle hm hb (hidle hb)
  | compress hb ht => rw [ht]; exact engineInv_of_datapath rfl (engineInv_issueCompress hi hb)
  | reserved hb ht => rw [ht]; exact engineInv_of_datapath rfl hi

/-- R201, R207: DECODE enters ROUNDS with both pipelines at their beginning. -/
theorem engineInv_decode {s : State} (hi : EngineInv s) (hs : s.seq = .decode) :
    EngineInv s.loadPipelines.afterDecode := by
  obtain ⟨hm, ⟨hbusy, -, -⟩, hheld, -⟩ := hi
  have hb : s.busy = true := hbusy.mpr (by simp [hs])
  exact ⟨hm, by simp [PhaseOk, State.afterDecode_eq, hs, hb], hheld, fun _ => ⟨rfl, rfl, rfl⟩⟩

/-- R30: whatever phase the sequencer moves to after a step, BUSY stays. -/
@[simp] theorem State.afterStep_busy (s : State) : s.afterStep.busy = s.busy := rfl

/-- R207: after a step in ROUNDS the sequencer stays there, or has both counters at 80 and enters COMBINE. -/
theorem phaseOk_afterStep {s : State} (hb : s.busy = true) (hs : s.seq = .rounds) (hj : s.jL.toNat ≤ 80)
    (hk : s.jR.toNat ≤ 80) : PhaseOk s.afterStep := by
  have hseq := s.afterStep_seq
  by_cases hover : 80 ≤ s.jL.toNat ∧ 80 ≤ s.jR.toNat
  · rw [if_pos ⟨hs, hover⟩] at hseq
    refine ⟨by simp [hseq, hb], by simp [hseq], fun _ => ?_⟩
    exact ⟨le_antisymm hj hover.1, le_antisymm hk hover.2⟩
  · rw [if_neg (by simp [hover]), hs] at hseq
    refine ⟨by simp [hseq, hb], fun _ => ⟨hj, hk, ?_⟩, by simp [hseq]⟩
    show s.jL.toNat < 80 ∨ s.jR.toNat < 80
    omega

/-- A step counter below 80 counts up without wrapping. -/
theorem counter_succ {j : BitVec 7} (hj : j.toNat < 80) : (j + 1#7).toNat = j.toNat + 1 :=
  BitVec.toNat_add_of_lt (by simp only [BitVec.toNat_ofNat]; omega)

/-- R202, R206: a left step advances the left pipeline by one and leaves the right one. -/
theorem engineInv_stepLeft {s : State} (hi : EngineInv s) (hs : s.seq = .rounds) (hj : s.jL.toNat < 80) :
    EngineInv (s.stepLeft s.jL.toNat).afterStep := by
  obtain ⟨hm, ⟨hbusy, hrounds, -⟩, hheld, hflight⟩ := hi
  obtain ⟨-, hr, -⟩ := hrounds hs
  obtain ⟨hx, hleft, hright⟩ := hflight (.inl hs)
  have hsucc := counter_succ hj
  refine ⟨hm, phaseOk_afterStep (hbusy.mpr (by simp [hs])) hs ?_ hr, hheld, fun _ => ⟨hx, ?_, hright⟩⟩
  · rw [State.stepLeft_jL, hsucc]; exact hj
  · show pipeStep .left s.jL.toNat s.x s.left
      = pipeAfter .left (schedule s.blkByte) s.h.toQuint (s.jL + 1#7).toNat
    rw [hsucc, pipeAfter, hx, hleft]

/-- R203, R206: a right step advances the right pipeline by one and leaves the left one. -/
theorem engineInv_stepRight {s : State} (hi : EngineInv s) (hs : s.seq = .rounds) (hj : s.jR.toNat < 80) :
    EngineInv (s.stepRight s.jR.toNat).afterStep := by
  obtain ⟨hm, ⟨hbusy, hrounds, -⟩, hheld, hflight⟩ := hi
  obtain ⟨hl, -, -⟩ := hrounds hs
  obtain ⟨hx, hleft, hright⟩ := hflight (.inl hs)
  have hsucc := counter_succ hj
  refine ⟨hm, phaseOk_afterStep (hbusy.mpr (by simp [hs])) hs hl ?_, hheld, fun _ => ⟨hx, hleft, ?_⟩⟩
  · rw [State.stepRight_jR, hsucc]; exact hj
  · show pipeStep .right s.jR.toNat s.x s.right
      = pipeAfter .right (schedule s.blkByte) s.h.toQuint (s.jR + 1#7).toNat
    rw [hsucc, pipeAfter, hx, hright]

/-- Settles O41: every kind of step keeps the invariant; the counters keep the sequencer from leaving ROUNDS but by a
step. -/
theorem stepKeepsEngineInv : Obligations.StepKeepsEngineInv := by
  intro s t hi h
  have hm : MemoryOk t := stepKeepsMemoryCanonical s t hi.1 h
  cases step_cases h with
  | reset hr ht => subst ht; exact engineInv_of_idle hm rfl rfl
  | select f i hr hf hd ht =>
    obtain ⟨w, hw⟩ := exec_select hd s
    rw [hw] at ht; cases ht
    exact engineInv_of_datapath rfl hi
  | access r i hr hf hq hd hb ht => exact accessTo_engineInv (exec_access hd hb ht) hi
  | busError r e hr hf hq hd ht => rw [ht]; exact engineInv_of_datapath rfl hi
  | decode hr hs ht => cases ht; exact engineInv_decode hi hs
  | stepl hr hs hj ht => obtain ⟨-, rfl⟩ := microStep_next ht; exact engineInv_stepLeft hi hs hj
  | stepr hr hs hj ht => obtain ⟨-, rfl⟩ := microStep_next ht; exact engineInv_stepRight hi hs hj
  | leave hr hs hj hk ht =>
    obtain ⟨-, ⟨-, hrounds, -⟩, -, -⟩ := hi
    obtain ⟨-, -, hbelow⟩ := hrounds hs
    omega
  | combine hr hs ht => cases ht; exact engineInv_of_idle hm rfl rfl
  | outside hr ho => exact engineInv_of_datapath (outsideMove_datapath ho) hi
  | idle hr hs ho ht => rw [ht]; exact hi

/-- Settles O39: reset leaves the engine idle with an empty buffer. -/
theorem engineInvAtReset : Obligations.EngineInvAtReset := engineInv_of_idle Memory.wf_nil rfl rfl

/-- Settles O37: reset clears every valid bit and every flag that STATUS shows (R34). -/
theorem resetStateIsAsTheSpecSays : Obligations.ResetStateIsAsTheSpecSays := by
  refine ⟨fun i => ?_, fun n => ?_, fun c => ?_, rfl, rfl, by decide, rfl, rfl, rfl, rfl⟩
  · exact BitVec.getLsbD_zero
  · exact BitVec.getLsbD_zero
  · cases c <;> rfl

/-- Settles O55: a completion names neither BLK nor the pipelines (log entry 22), and entering IDLE names the phase
alone. -/
theorem combineKeepsBlockAndPipelines : Obligations.CombineKeepsBlockAndPipelines :=
  fun _ => ⟨_, rfl, fun _ => rfl, rfl, rfl, rfl, rfl, rfl⟩

end Sys2Proof.Machine
end

section
/-! SUPPORT. No host access shows anything of the block buffer or of the pipelines (10_state.md R24, R33): what an access
performs depends on neither, apart from the block buffer it leaves. -/

namespace Sys2Proof.Machine

/-- The state with other data in the block buffer, the schedule and the quintuples. -/
def State.withHidden (s : State) (m : List Host.Cell) (x : Vector Word 16) (p q : Quint) : State :=
  { s with blk := m, x := x, left := p, right := q }

@[simp] theorem State.withHidden_busy (s : State) (m : List Host.Cell) (x : Vector Word 16) (p q : Quint) :
    (s.withHidden m x p q).busy = s.busy := rfl

@[simp] theorem State.withHidden_hasH (s : State) (m : List Host.Cell) (x : Vector Word 16) (p q : Quint) (i : Fin 5) :
    (s.withHidden m x p q).hasH i = s.hasH i := rfl

/-- An operation hides the block: with other hidden data it leaves the same state but for the hidden data, of which the
schedule and the quintuples stay as they were given. -/
def HidesBlock (f : State → State) : Prop :=
  ∀ (s : State) (m : List Host.Cell) (x : Vector Word 16) (p q : Quint),
    ∃ m', f (s.withHidden m x p q) = (f s).withHidden m' x p q

theorem HidesBlock.comp {f g : State → State} (hg : HidesBlock g) (hf : HidesBlock f) :
    HidesBlock fun s => g (f s) := by
  intro s m x p q
  obtain ⟨m', hm'⟩ := hf s m x p q
  obtain ⟨m'', hm''⟩ := hg (f s) m' x p q
  exact ⟨m'', (congrArg g hm').trans hm''⟩

theorem hidesBlock_answer (w : Word) (e : Bool) : HidesBlock fun s => s.answer w e := fun _ m _ _ _ => ⟨m, rfl⟩

/-- R122: STATUS shows the valid bits, and nothing of the bytes they are for. -/
theorem hidesBlock_answerStatus : HidesBlock fun s => s.answer s.statusWord false := fun _ m _ _ _ => ⟨m, rfl⟩

theorem hidesBlock_readH (i : Fin 5) : HidesBlock fun s => s.readH i := by
  intro s m x p q
  refine ⟨m, ?_⟩
  cases hv : s.hasH i <;> simp only [State.readH, State.withHidden_hasH, hv] <;> rfl

theorem hidesBlock_writeH (i : Fin 5) (v : Word) : HidesBlock fun s => s.writeH i v := fun _ m _ _ _ => ⟨m, rfl⟩

theorem hidesBlock_writeByte (n : Nat) (b : Byte) : HidesBlock fun s => s.writeByte n b :=
  fun _ m _ _ _ => ⟨Memory.write m n b, rfl⟩

theorem hidesBlock_writeBlkWord (i : BitVec 4) (v : Word) : HidesBlock fun s => s.writeBlkWord i v :=
  (hidesBlock_writeByte _ _).comp <| (hidesBlock_writeByte _ _).comp <|
    (hidesBlock_writeByte _ _).comp (hidesBlock_writeByte _ _)

/-- R119, R141: a command looks at the valid bits of the block, never at its bytes. -/
theorem hidesBlock_command (c : Command) : HidesBlock fun s => s.command c := by
  intro s m x p q
  cases c <;> exact ⟨m, rfl⟩

/-- An instruction hides the block if what it does with other hidden data differs in the hidden data alone. -/
def InstrHidesBlock (i : Instr) : Prop :=
  ∀ (s t : State) (m : List Host.Cell) (x : Vector Word 16) (p q : Quint), exec i s = .next t →
    ∃ m', exec i (s.withHidden m x p q) = .next (t.withHidden m' x p q)

/-- R111: an access hides the block, held or performed, if what it performs does. -/
theorem instrHidesBlock_of_access {i : Instr} {f : State → State} (hi : ∀ s, exec i s = access s (f s))
    (hf : HidesBlock f) : InstrHidesBlock i := by
  intro s t m x p q ht
  rw [hi] at ht ⊢
  rcases access_next ht with ⟨hb, rfl⟩ | ⟨hb, rfl⟩
  · exact ⟨m, access_busy (by simp [hb]) _⟩
  · obtain ⟨m', hm'⟩ := hf s m x p q
    exact ⟨m', by rw [access_free (by simp [hb]), hm']⟩

/-- An instruction that is always performed hides the block if what it performs does. -/
theorem instrHidesBlock_of_next {i : Instr} {f : State → State} (hi : ∀ s, exec i s = .next (f s))
    (hf : HidesBlock f) : InstrHidesBlock i := by
  intro s t m x p q ht
  rw [hi] at ht ⊢; cases ht
  obtain ⟨m', hm'⟩ := hf s m x p q
  exact ⟨m', by rw [hm']⟩

theorem instrHidesBlock_readInstr (tgt : Target) : InstrHidesBlock (readInstr tgt) := by
  cases tgt with
  | h i => exact instrHidesBlock_of_access (exec_readInstr (.h i)) (hidesBlock_readH i)
  | blkByte n => exact instrHidesBlock_of_access (exec_readInstr (.blkByte n)) (hidesBlock_answer 0#32 false)
  | blkWord i => exact instrHidesBlock_of_access (exec_readInstr (.blkWord i)) (hidesBlock_answer 0#32 false)
  | ctrl => exact instrHidesBlock_of_access (exec_readInstr .ctrl) (hidesBlock_answer 0#32 false)
  | status => exact instrHidesBlock_of_next (exec_readInstr .status) hidesBlock_answerStatus

theorem instrHidesBlock_writeInstr (v : Word) (tgt : Target) : InstrHidesBlock (writeInstr v tgt) := by
  have acked {f : State → State} (hf : HidesBlock f) : HidesBlock fun s => (f s).ack :=
    (hidesBlock_answer 0#32 false).comp hf
  cases tgt with
  | h i => exact instrHidesBlock_of_access (exec_writeInstr v (.h i)) (acked (hidesBlock_writeH i v))
  | blkByte n => exact instrHidesBlock_of_access (exec_writeInstr v (.blkByte n)) (acked (hidesBlock_writeByte _ _))
  | blkWord i => exact instrHidesBlock_of_access (exec_writeInstr v (.blkWord i)) (acked (hidesBlock_writeBlkWord i v))
  | ctrl => exact instrHidesBlock_of_access (exec_writeInstr v .ctrl) (acked (hidesBlock_command (commandOf v)))
  | status => exact instrHidesBlock_of_next (exec_writeInstr v .status) (hidesBlock_answer 0#32 false)

/-- Settles O50: a transaction that decodes is the read or the write of a target, and both hide the block. -/
theorem blockIsNeverObservable : Obligations.BlockIsNeverObservable := by
  intro s t r i m x p q hd ht
  obtain ⟨tgt, -, hi⟩ := decodeBus_ok hd
  have hide : InstrHidesBlock i := by
    rw [hi]
    split
    · exact instrHidesBlock_writeInstr r.wdata tgt
    · exact instrHidesBlock_readInstr tgt
  obtain ⟨m', hm'⟩ := hide s t m x p q ht
  exact ⟨t.withHidden m' x p q, hm', rfl⟩

end Sys2Proof.Machine
end

section
/-! SUPPORT. The rounds of a COMPRESS (20_memory.md R58, 45_pipelines.md R206 to R208), as a closed form: where the
sequencer stands after some left and some right steps does not depend on how they were interleaved. A COMPRESS that
nothing disturbs is a run along these states. -/

namespace Sys2Proof.Machine

/-! ### When nothing but the sequencer can move -/

/-- R61, R110: whether the outside world can move is a matter of its list and of the request port alone. -/
theorem outsideMove_none_of_same {s t : State} (hh : t.host = s.host) (hq : t.req = s.req)
    (h : outsideMove s = none) : outsideMove t = none := by
  unfold outsideMove at h ⊢
  rw [hh, hq]
  split at h
  · rfl
  · cases h
  · split at h
    · cases h
    · rfl

/-- R58, R62: with only the sequencer able to move, its instruction is the step. -/
theorem step_alone {s : State} {i : Instr} (ha : EngineAlone s) (hm : engineMove s = some (.instr i)) :
    step s = exec i s := by
  obtain ⟨hr, hf, ho, hq⟩ := ha
  rw [step, step_engine hr hf ho hq hm]

theorem engineMove_idle {s : State} (hs : s.seq = .idle) : engineMove s = none := by
  simp [engineMove, microWord, hs]

theorem engineMove_decode {s : State} (hs : s.seq = .decode) : engineMove s = some (.instr .decode) := by
  simp [engineMove, microWord, microTurn, hs]

theorem engineMove_combine {s : State} (hs : s.seq = .combine) : engineMove s = some (.instr .combine) := by
  simp [engineMove, microWord, microTurn, hs]

/-! ### The states of the rounds -/

/-- R206, R207: the COMPRESS of `s` after l left and r right steps, at position p of the free schedule. -/
def State.roundsAt (s : State) (l r p : Nat) : State :=
  { s with
    x := schedule s.blkByte
    left := pipeAfter .left (schedule s.blkByte) s.h.toQuint l
    right := pipeAfter .right (schedule s.blkByte) s.h.toQuint r
    seq := if 80 ≤ l ∧ 80 ≤ r then .combine else .rounds
    jL := BitVec.ofNat 7 l
    jR := BitVec.ofNat 7 r
    sched := p }

section
variable (s : State) (l r p : Nat)

theorem State.roundsAt_seq : (s.roundsAt l r p).seq = if 80 ≤ l ∧ 80 ≤ r then .combine else .rounds := rfl

@[simp] theorem State.roundsAt_rst : (s.roundsAt l r p).rst = s.rst := rfl
@[simp] theorem State.roundsAt_fsel : (s.roundsAt l r p).fsel = s.fsel := rfl
@[simp] theorem State.roundsAt_req : (s.roundsAt l r p).req = s.req := rfl

theorem State.roundsAt_jL (hl : l ≤ 80) : (s.roundsAt l r p).jL.toNat = l :=
  (BitVec.toNat_ofNat l 7).trans (Nat.mod_eq_of_lt (by omega))

theorem State.roundsAt_jR (hr : r ≤ 80) : (s.roundsAt l r p).jR.toNat = r :=
  (BitVec.toNat_ofNat r 7).trans (Nat.mod_eq_of_lt (by omega))

end

/-- R58: the rounds open no move to the outside world and take no transaction. -/
theorem engineAlone_roundsAt {s : State} (ha : EngineAlone s) (l r p : Nat) : EngineAlone (s.roundsAt l r p) := by
  obtain ⟨hr, hf, ho, hq⟩ := ha
  exact ⟨hr, hf, outsideMove_none_of_same (s := s) rfl rfl ho, hq⟩

/-- R160, R201, R207: DECODE begins the rounds. -/
theorem exec_decode_eq {s : State} (hs : s.seq = .decode) : exec .decode s = .next (s.roundsAt 0 0 (s.sched + 1)) := by
  show Host.Outcome.next (s.loadPipelines.enter (if s.seq = .decode then .rounds else s.seq)) = _
  rw [if_pos hs]; rfl

/-- R207: the sequencer's move after a step, in ROUNDS, of either pipeline. -/
theorem afterStep_roundsAt (s : State) {l r : Nat} (p : Nat) (hl : l ≤ 80) (hr : r ≤ 80) :
    State.afterStep { s.roundsAt l r p with seq := .rounds } = s.roundsAt l r (p + 1) := by
  have hover : State.roundsOver { s.roundsAt l r p with seq := .rounds } = true ↔ 80 ≤ l ∧ 80 ≤ r := by
    rw [State.roundsOver_iff]
    show 80 ≤ (s.roundsAt l r p).jL.toNat ∧ 80 ≤ (s.roundsAt l r p).jR.toNat ↔ _
    rw [s.roundsAt_jL l r p hl, s.roundsAt_jR l r p hr]
  rw [State.afterStep_eq]
  simp only [hover, true_and]
  rfl

/-- R202: one left step more. -/
theorem stepLeft_roundsAt {s : State} {l r : Nat} (p : Nat) (hs : (s.roundsAt l r p).seq = .rounds) :
    (s.roundsAt l r p).stepLeft l = { s.roundsAt (l + 1) r p with seq := .rounds } := by
  have hj : BitVec.ofNat 7 l + 1#7 = BitVec.ofNat 7 (l + 1) := (BitVec.ofNat_add l 1).symm
  rw [← hs, State.stepLeft]
  simp only [State.roundsAt, hj, pipeAfter]

/-- R203: one right step more. -/
theorem stepRight_roundsAt {s : State} {l r : Nat} (p : Nat) (hs : (s.roundsAt l r p).seq = .rounds) :
    (s.roundsAt l r p).stepRight r = { s.roundsAt l (r + 1) p with seq := .rounds } := by
  have hj : BitVec.ofNat 7 r + 1#7 = BitVec.ofNat 7 (r + 1) := (BitVec.ofNat_add r 1).symm
  rw [← hs, State.stepRight]
  simp only [State.roundsAt, hj, pipeAfter]

/-- R206, R207: while a pipeline has steps to do, a step of the rounds is one of the left or of the right pipeline. -/
theorem step_roundsAt {s : State} (ha : EngineAlone s) {l r : Nat} (p : Nat) (hl : l ≤ 80) (hr : r ≤ 80)
    (hlr : l + r < 160) :
    (l < 80 ∧ step (s.roundsAt l r p) = .next (s.roundsAt (l + 1) r (p + 1)))
      ∨ (r < 80 ∧ step (s.roundsAt l r p) = .next (s.roundsAt l (r + 1) (p + 1))) := by
  have halone := engineAlone_roundsAt ha l r p
  have hjL := s.roundsAt_jL l r p hl
  have hjR := s.roundsAt_jR l r p hr
  have hs : (s.roundsAt l r p).seq = .rounds := by
    rw [State.roundsAt_seq, if_neg (by omega)]
  rcases engineMove_cases (s.roundsAt l r p) with
    ⟨hq, -⟩ | ⟨hq, -⟩ | ⟨-, hj, -, hm⟩ | ⟨-, hj, -, hm⟩ | ⟨-, hj, hk, -⟩ | ⟨hq, -⟩
  · rw [hs] at hq; cases hq
  · rw [hs] at hq; cases hq
  · left
    rw [step_alone halone hm]
    show l < 80 ∧ microStep _ ((s.roundsAt l r p).stepLeft _) = _
    rw [microStep_inRange hj, hjL, stepLeft_roundsAt p hs]
    rw [hjL] at hj
    exact ⟨hj, by rw [afterStep_roundsAt s p hj hr]⟩
  · right
    rw [step_alone halone hm]
    show r < 80 ∧ microStep _ ((s.roundsAt l r p).stepRight _) = _
    rw [microStep_inRange hj, hjR, stepRight_roundsAt p hs]
    rw [hjR] at hj
    exact ⟨hj, by rw [afterStep_roundsAt s p hl hj]⟩
  · omega
  · rw [hs] at hq; cases hq

/-- R206, R208: the rounds end with both pipelines done after as many steps as the two have to do, however they are
interleaved. -/
theorem run_rounds {s : State} (ha : EngineAlone s) : ∀ (n : Nat) {l r : Nat} (p : Nat), l ≤ 80 → r ≤ 80 →
    l + r + n = 160 → core.run n (s.roundsAt l r p) = .next (s.roundsAt 80 80 (p + n))
  | 0, l, r, p, hl, hr, hn => by
    obtain ⟨rfl, rfl⟩ : l = 80 ∧ r = 80 := by omega
    rfl
  | n + 1, l, r, p, hl, hr, hn => by
    rw [show p + (n + 1) = p + 1 + n by omega]
    rcases step_roundsAt ha p hl hr (by omega) with ⟨hj, h⟩ | ⟨hj, h⟩
    · rw [core_run_next h]
      exact run_rounds ha n (p + 1) hj hr (by omega)
    · rw [core_run_next h]
      exact run_rounds ha n (p + 1) hl hj (by omega)

/-- R143, R208: what COMBINE leaves after the rounds: the completion with Compress(H, BLK), and the sequencer in IDLE. -/
def State.completedAt (s : State) (p : Nat) : State :=
  ((s.roundsAt 80 80 p).completeWith (compress s.h s.blkByte)).enter .idle

section
variable (s : State) (p : Nat)

@[simp] theorem State.completedAt_h : (s.completedAt p).h = compress s.h s.blkByte := by simp [completedAt]
@[simp] theorem State.completedAt_busy : (s.completedAt p).busy = false := by simp [completedAt]
@[simp] theorem State.completedAt_done : (s.completedAt p).done = true := by simp [completedAt]
/-! The next three go field by field: a kernel that compared the two states whole would run the 80 steps. -/

@[simp] theorem State.completedAt_rst : (s.completedAt p).rst = s.rst := by
  rw [completedAt, enter_rst, completeWith_rst, roundsAt_rst]
@[simp] theorem State.completedAt_fsel : (s.completedAt p).fsel = s.fsel := by
  rw [completedAt, enter_fsel, completeWith_fsel, roundsAt_fsel]
@[simp] theorem State.completedAt_req : (s.completedAt p).req = s.req := by
  rw [completedAt, enter_req, completeWith_req, roundsAt_req]

@[simp] theorem State.completedAt_hasH (i : Fin 5) : (s.completedAt p).hasH i = true :=
  (State.stateOk_iff _).mp (by simp [completedAt]) i

@[simp] theorem State.completedAt_hasByte (n : Nat) : (s.completedAt p).hasByte n = false := by
  simp [hasByte, completedAt]

end

theorem step_combine_roundsAt {s : State} (ha : EngineAlone s) (p : Nat) :
    step (s.roundsAt 80 80 p) = .next (s.completedAt p) := by
  rw [step_alone (engineAlone_roundsAt ha 80 80 p) (engineMove_combine rfl), State.completedAt, compress_eq]
  rfl

/-- R208: a COMPRESS that nothing disturbs completes in 162 steps, whatever the free schedule says. -/
theorem run_compress {s : State} (ha : EngineAlone s) (hs : s.seq = .decode) :
    core.run 162 s = .next (s.completedAt (s.sched + 1 + 160)) := by
  have hdecode : step s = .next (s.roundsAt 0 0 (s.sched + 1)) := by
    rw [step_alone ha (engineMove_decode hs), exec_decode_eq hs]
  have hrounds := run_rounds ha 160 (s.sched + 1) (Nat.zero_le 80) (Nat.zero_le 80) rfl
  exact (core_run_next hdecode).trans ((core_run_snoc hrounds).trans (step_combine_roundsAt ha _))

/-! ### The held access after the completion -/

/-- R82: the read instruction of a state word's target. -/
theorem readInstr_h (k : Fin 5) : readInstr (.h k) = rd32H k := by
  revert k; decide

/-- R112: a read of a written state word answers it. -/
theorem exec_rd32H {s : State} {k : Fin 5} (hb : s.busy = false) (hk : s.hasH k = true) :
    exec (rd32H k) s = .next (s.answer (s.h.get k) false) := by
  rw [← readInstr_h, exec_readInstr]
  simp only [accessReadH, access_free hb, State.readH, hk, if_true]

/-- Settles O47: the held access waits through the 162 steps of the COMPRESS and is the step on the state that the
completion leaves. -/
theorem heldAccessIsPerformedAfterCompletion : Obligations.HeldAccessIsPerformedAfterCompletion := by
  intro s r i hr hf hhost hb hs hq hd hi
  have ho : outsideMove s = none := by
    rcases hhost with hnil | ⟨a, rest, hcons⟩
    · exact outsideMove_nil hnil
    · exact outsideMove_waits hcons hq
  obtain ⟨p, hrun⟩ : ∃ p, core.run 162 s = .next (s.completedAt p) :=
    ⟨_, run_compress ⟨hr, hf, ho, .inr ⟨r, i, hq, hd, hb, hi⟩⟩ hs⟩
  have hnext : core.run 163 s = exec i (s.completedAt p) :=
    (core_run_snoc hrun).trans (step_access (by simp [hr]) (by simp [hf]) (by simp [hq]) hd (by simp))
  refine ⟨s.completedAt p, hrun, by simp, by simp, by simp, by simp, by simp [hq], hnext, ?_⟩
  rintro k rfl
  have hread := exec_rd32H (s.completedAt_busy p) (s.completedAt_hasH p k)
  rw [State.completedAt_h] at hread
  exact ⟨_, hnext.trans hread, by simp, by simp⟩

end Sys2Proof.Machine
end

section
/-! SUPPORT. A host access from the request port on (20_memory.md R53 to R62): the target its size and offset select, the
byte writes of a word write, the hold, and when the host's next access is presented. -/

namespace Sys2Proof.Machine

/-! ### The target of a size and an offset (R53) -/

/-- R52: the offset in the window where a target stands. -/
def targetOffset : Target → Nat
  | .h i => 4 * i.val
  | .blkByte n => 0x40 + n.toNat
  | .blkWord i => 0x40 + 4 * i.toNat
  | .ctrl => 0xF0
  | .status => 0xF4

/-- R53, R81: the size code a target takes. -/
def targetSizeCode : Target → Nat
  | .blkByte _ => 0
  | .h _ | .blkWord _ | .ctrl | .status => 2

theorem hIndex_eq_some {off : BitVec 8} {i : Fin 5} (h : hIndex off = some i) : off.toNat = 4 * i.val := by
  unfold hIndex at h
  split_ifs at h with hoff hoff hoff hoff hoff <;> cases h <;> rw [hoff] <;> rfl

/-- R52: the block buffer is the second quarter of the window. -/
theorem inBlock_offset {off : BitVec 8} (h : inBlock off = true) :
    off.toNat = 0x40 + (off.extractLsb' 0 6).toNat := by
  have hq : off.toNat / 64 % 4 = 1 := by
    simpa [inBlock, BitVec.toNat_eq, BitVec.extractLsb'_toNat, Nat.shiftRight_eq_div_pow] using h
  have := off.isLt
  simp only [BitVec.extractLsb'_toNat, Nat.shiftRight_zero]
  omega

/-- R57: an aligned offset in the block buffer is a word's. -/
theorem aligned_offset {off : BitVec 8} (hb : inBlock off = true) (ha : aligned off = true) :
    off.toNat = 0x40 + 4 * (off.extractLsb' 2 4).toNat := by
  have hq : off.toNat % 4 = 0 := by
    simpa [aligned, BitVec.toNat_eq, BitVec.extractLsb'_toNat] using ha
  have hoff := inBlock_offset hb
  simp only [BitVec.extractLsb'_toNat, Nat.shiftRight_eq_div_pow] at hoff ⊢
  omega

theorem wordTarget_eq_some {off : BitVec 8} {tgt : Target} (h : wordTarget off = some tgt) :
    targetSizeCode tgt = 2 ∧ off.toNat = targetOffset tgt := by
  unfold wordTarget at h
  split at h
  · next i hi => cases h; exact ⟨rfl, hIndex_eq_some hi⟩
  · split_ifs at h with hblk hctrl hstatus
    · cases h
      obtain ⟨hb, ha⟩ := Bool.and_eq_true_iff.mp hblk
      exact ⟨rfl, aligned_offset hb ha⟩
    · cases h; exact ⟨rfl, by rw [hctrl]; rfl⟩
    · cases h; exact ⟨rfl, by rw [hstatus]; rfl⟩

theorem byteTarget_eq_some {off : BitVec 8} {tgt : Target} (h : byteTarget off = some tgt) :
    targetSizeCode tgt = 0 ∧ off.toNat = targetOffset tgt := by
  unfold byteTarget at h
  split_ifs at h with hb
  cases h
  exact ⟨rfl, inBlock_offset hb⟩

/-- R53: each target is selected by its own size and offset. -/
theorem decodeTarget_own (tgt : Target) :
    decodeTarget (BitVec.ofNat 2 (targetSizeCode tgt)) (BitVec.ofNat 8 (targetOffset tgt)) = some tgt := by
  cases tgt with
  | h i => revert i; decide
  | blkByte n => revert n; decide
  | blkWord i => revert i; decide
  | ctrl => rfl
  | status => rfl

/-- R53: a size and an offset select a target exactly when they are the target's own. -/
theorem decodeTarget_eq_some_iff (sz : BitVec 2) (off : BitVec 8) (tgt : Target) :
    decodeTarget sz off = some tgt ↔ sz.toNat = targetSizeCode tgt ∧ off.toNat = targetOffset tgt := by
  constructor
  · intro h
    unfold decodeTarget at h
    split_ifs at h with hword hbyte
    · obtain ⟨hsz, hoff⟩ := wordTarget_eq_some h
      exact ⟨by rw [hword, hsz]; rfl, hoff⟩
    · obtain ⟨hsz, hoff⟩ := byteTarget_eq_some h
      exact ⟨by rw [hbyte, hsz]; rfl, hoff⟩
  · rintro ⟨hsz, hoff⟩
    rw [← decodeTarget_own tgt, ← hsz, ← hoff, BitVec.ofNat_toNat, BitVec.ofNat_toNat, BitVec.setWidth_eq,
      BitVec.setWidth_eq]

/-- Settles O4: the five equivalences are one, at each kind of target. -/
theorem accessDecodeSelectsTarget : Obligations.AccessDecodeSelectsTarget := fun sz off =>
  ⟨fun i => decodeTarget_eq_some_iff sz off (.h i), fun n => decodeTarget_eq_some_iff sz off (.blkByte n),
    fun i => decodeTarget_eq_some_iff sz off (.blkWord i), decodeTarget_eq_some_iff sz off .ctrl,
    decodeTarget_eq_some_iff sz off .status⟩

/-! ### A word write as byte writes (R56) -/

/-- R83: the byte index of lane k of block word i. -/
theorem toNat_append_lane (i : BitVec 4) (k : BitVec 2) : (i ++ k).toNat = blkIndex i k.toNat := by
  rw [BitVec.toNat_append, ← Nat.shiftLeft_add_eq_or_of_lt k.isLt, Nat.shiftLeft_eq, Nat.mul_comm]; rfl

/-- R115: a byte write at lane k of a word writes lane k of any word with the same lane. -/
theorem exec_wr8Blk_lane {s : State} (hb : s.busy = false) (i : BitVec 4) (k : BitVec 2) {w v : Word}
    (hw : w.extractLsb' 0 8 = v.extractLsb' (8 * k.toNat) 8) :
    exec (.wr8Blk (i ++ k) w) s = .next (s.writeByte (blkIndex i k.toNat) (lane v k.toNat)).ack := by
  have hlane : lane w 0 = lane v k.toNat := hw
  show access s (s.writeByte (i ++ k).toNat (lane w 0)).ack = _
  rw [access_free hb, toNat_append_lane, hlane]

/-- Settles O11: both write the same bytes in the same order, and only the last response stands. -/
theorem wordWriteIsFourByteWrites : Obligations.WordWriteIsFourByteWrites := fun i v _ _ _ _ s hb h0 h1 h2 h3 =>
  ⟨_, _, _, (s.writeBlkWord i v).ack, exec_wr8Blk_lane hb i 0b00#2 h0, exec_wr8Blk_lane (by exact hb) i 0b01#2 h1,
    exec_wr8Blk_lane (by exact hb) i 0b10#2 h2, exec_wr8Blk_lane (by exact hb) i 0b11#2 h3, access_free hb _⟩

/-! ### The hold (R58, R111) -/

/-- R110, R111: while BUSY the engine is not ready for an access that may be held. -/
theorem State.reqReady_held {s : State} (hb : s.busy = true) : s.reqReady true = false := by
  simp [reqReady, hb]

/-- Settles O19: a held access leaves the state as it is, and BUSY alone keeps the engine from taking it. -/
theorem heldAccessChangesNothing : Obligations.HeldAccessChangesNothing := fun _ _ hi hb =>
  ⟨exec_held hi hb, hi ▸ State.reqReady_held hb⟩

/-! ### Presenting the host's next access (R61, R62, R110) -/

/-- R61, R110: the host's next access is presented when none is pending. -/
theorem outsideMove_access {s : State} {r : BusReq} {rest : List HostEvent} (hh : s.host = .access r :: rest)
    (hq : s.req = none) :
    outsideMove s = some { s with req := some r, rsp := none, host := rest, sched := s.sched + 1 } := by
  simp [outsideMove, hh, hq]

/-- R62: with no transaction pending, the sequencer and the outside world take the step. -/
theorem nextTurn_eq_waitTurn {s : State} (hr : s.rst = false) (hf : s.fsel = none) (hq : s.req = none) :
    nextTurn s = waitTurn s := by
  simp [nextTurn, hr, hf, hq]

/-- Settles O33: in IDLE the sequencer has no move, so that the outside world's is the step. -/
theorem hostAccessIsPresentedInOrder : Obligations.HostAccessIsPresentedInOrder := by
  intro s r rest hr hf hq hs hh
  have hstep : step s = .next { s with req := some r, rsp := none, host := rest, sched := s.sched + 1 } := by
    rw [step, nextTurn_eq_waitTurn hr hf hq, waitTurn, engineMove_idle hs, outsideMove_access hh hq]
  refine ⟨_, hstep, rfl, rfl, rfl, hr, hf, ⟨fun _ => rfl, rfl⟩, ⟨fun _ => rfl, rfl⟩, fun c => ?_, ⟨rfl, rfl, rfl⟩,
    ⟨rfl, rfl, rfl, rfl, rfl⟩, rfl, rfl, rfl, fun hb => ⟨fun i hd => ?_, fun e hd => ?_⟩⟩
  · cases c <;> rfl
  · exact step_access hr hf rfl hd (by simp [hb])
  · exact step_busError hr hf rfl hd

/-- Settles O34: in COMBINE both have a move, and the free schedule picks one. -/
theorem accessMayFallOnEitherSideOfCompletion : Obligations.AccessMayFallOnEitherSideOfCompletion := by
  intro s r rest hr hf hq hs hh
  rw [step, nextTurn_eq_waitTurn hr hf hq, waitTurn, engineMove_combine hs, outsideMove_access hh hq]
  cases Config.outsideFirst s.engine s.sched <;> rfl

end Sys2Proof.Machine
end

section
/-! SUPPORT. The platform of several engines (20_memory.md R51, R67, 60_exceptions.md R243): their windows are apart, and a
step of one engine is nothing to the others. -/

namespace Sys2Proof.Machine

/-! ### Windows (R51) -/

/-- R51: an address reaches a window at the offset it lies above the window's base. -/
theorem windowOffset_eq_some_iff (base addr : Nat) (off : BitVec 8) :
    windowOffset base addr = some off ↔ addr = base + off.toNat := by
  have hoff := off.isLt
  unfold windowOffset
  split_ifs with hin
  · rw [Option.some_inj, ← BitVec.toNat_inj, BitVec.toNat_ofNat, Nat.mod_eq_of_lt (by omega)]
    omega
  · simp only [false_iff]
    omega

/-- R51, U11: the window an address reaches gives the engine's slot. -/
theorem engineSlot_of_windowOffset {k addr : Nat} {off : BitVec 8}
    (h : windowOffset (Config.engineBase k) addr = some off) : Config.engineSlot k = addr / 256 := by
  have haddr := (windowOffset_eq_some_iff _ addr off).mp h
  have hoff := off.isLt
  unfold Config.engineBase at haddr
  omega

/-- R67: no address reaches the windows of two engines. -/
theorem windowOffset_disjoint {j k : Nat} (addr : Nat) (hjk : j ≠ k) :
    windowOffset (Config.engineBase j) addr = none ∨ windowOffset (Config.engineBase k) addr = none := by
  by_contra hboth
  obtain ⟨hj, hk⟩ := not_or.mp hboth
  obtain ⟨a, ha⟩ := Option.ne_none_iff_exists'.mp hj
  obtain ⟨b, hb⟩ := Option.ne_none_iff_exists'.mp hk
  exact hjk (Config.engineSlot.injective ((engineSlot_of_windowOffset ha).trans (engineSlot_of_windowOffset hb).symm))

/-! ### The engines of a platform (R67, R243) -/

/-- R67: a step of one engine leaves every other engine's state as it was. -/
theorem platformStep_getElem?_ne {j k : Nat} {engines after : List State} (h : platformStep k engines = .next after)
    (hjk : j ≠ k) : after[j]? = engines[j]? := by
  rcases platformStep_cases h with ⟨-, rfl⟩ | ⟨s, t, -, -, rfl⟩
  · rfl
  · exact List.getElem?_set_ne hjk.symm

/-- Settles O52: the bases are multiples of 256, one for each engine, and a step sets one entry of the list. -/
theorem windowsAndEnginesAreSeparate : Obligations.WindowsAndEnginesAreSeparate :=
  ⟨fun k => windowOffset_eq_some_iff (Config.engineBase k), fun _ => Nat.mul_mod_right 256 _,
    fun _ _ addr => windowOffset_disjoint addr, fun _ _ _ _ => platformStep_getElem?_ne⟩

/-- Settles O57: each engine's step depends on its own entry of the list and sets no other. -/
theorem stepsOfTwoEnginesCommute : Obligations.StepsOfTwoEnginesCommute := by
  intro j k engines a b hjk ha hb
  have hak : a[k]? = engines[k]? := platformStep_getElem?_ne ha hjk.symm
  have hbj : b[j]? = engines[j]? := platformStep_getElem?_ne hb hjk
  rcases platformStep_cases ha with ⟨hj, rfl⟩ | ⟨s, s', hj, hs, rfl⟩
  · exact ⟨b, hb, platformStep_none (hbj.trans hj)⟩
  · rcases platformStep_cases hb with ⟨hk, rfl⟩ | ⟨t, t', hk, ht, rfl⟩
    · exact ⟨_, platformStep_none (hak.trans hk), ha⟩
    · refine ⟨_, platformStep_next (hak.trans hk) ht, ?_⟩
      rw [platformStep_next (hbj.trans hj) hs, List.set_comm _ _ hjk]

/-- Every host access leaves the engine's number. -/
theorem accessTo_engine {s t : State} (ha : AccessTo s t) : t.engine = s.engine := by
  cases ha with
  | readH i hb ht => rcases s.readH_cases i with ⟨-, h⟩ | ⟨-, h⟩ <;> rw [ht, h] <;> rfl
  | answered w ht => rw [ht]; rfl
  | writeH i v hb ht => rw [ht]; rfl
  | writeByte n b hb ht => rw [ht]; rfl
  | writeBlkWord i v hb ht => rw [ht]; rfl
  | compress hb ht => rw [ht]; rfl
  | reserved hb ht => rw [ht]; rfl

/-- R243: every step, the reset event among them, leaves the engine's number. -/
theorem step_engineNumber {s t : State} (h : step s = .next t) : t.engine = s.engine := by
  cases step_cases h with
  | reset hr ht => rw [ht]; rfl
  | select f i hr hf hd ht =>
    obtain ⟨w, hw⟩ := exec_select hd s
    rw [hw] at ht; cases ht; rfl
  | access r i hr hf hq hd hb ht => exact accessTo_engine (exec_access hd hb ht)
  | busError r e hr hf hq hd ht => rw [ht]; rfl
  | decode hr hs ht => cases ht; rfl
  | stepl hr hs hj ht => obtain ⟨-, rfl⟩ := microStep_next ht; rfl
  | stepr hr hs hj ht => obtain ⟨-, rfl⟩ := microStep_next ht; rfl
  | leave hr hs hj hk ht => rw [ht]; rfl
  | combine hr hs ht => cases ht; rfl
  | outside hr ho => rcases outsideMove_some ho with ⟨rest, -, rfl⟩ | ⟨r, rest, -, -, rfl⟩ <;> rfl
  | idle hr hs ho ht => rw [ht]

/-- R67, R243: the engines of a platform have the numbers of their places. -/
def Numbered (engines : List State) : Prop := ∀ (k : Nat) (s : State), engines[k]? = some s → s.engine = k

theorem numbered_platformReset : Numbered platformReset := by
  intro k s hk
  obtain ⟨hlt, rfl⟩ := List.getElem?_eq_some_iff.mp hk
  simp [platformReset]

theorem numbered_platformStep {j : Nat} {engines after : List State} (hn : Numbered engines)
    (h : platformStep j engines = .next after) : after.length = engines.length ∧ Numbered after := by
  rcases platformStep_cases h with ⟨-, rfl⟩ | ⟨s, t, hj, ht, rfl⟩
  · exact ⟨rfl, hn⟩
  · refine ⟨List.length_set, fun k u hu => ?_⟩
    by_cases hjk : j = k
    · subst hjk
      obtain rfl : t = u := by simpa [(List.getElem?_eq_some_iff.mp hj).1] using hu
      exact (step_engineNumber ht).trans (hn j s hj)
    · exact hn k u (by rwa [List.getElem?_set_ne hjk] at hu)

/-- Settles O58: the numbers are given at reset, and no step touches them. -/
theorem platformKeepsItsEngines : Obligations.PlatformKeepsItsEngines :=
  ⟨⟨by simp [platformReset], numbered_platformReset⟩, fun _ _ _ => numbered_platformStep⟩

end Sys2Proof.Machine
end

section
/-! SUPPORT. The encoder against the decoders (30_encoding.md R80 to R89): each inverts the other, a descriptor decodes
exactly when it fits a row of the opcode map, and the reserved words are rejected. -/

namespace Sys2Proof.Machine

/-! ### The fields of a word make the word (R81, R86) -/

/-- R81: a descriptor is made of its three fields. -/
theorem busWord_fields (r : BusReq) : busWord (BitVec.ofBool r.isWrite) r.sizeCode r.offset = r.t := by
  have hdir : BitVec.ofBool r.isWrite = r.t.extractLsb' 10 1 := by
    refine BitVec.eq_of_getLsbD_eq fun k hk => ?_
    obtain rfl : k = 0 := by omega
    simp [BusReq.isWrite]
  rw [hdir]
  unfold busWord BusReq.sizeCode BusReq.offset
  rw [BitVec.extractLsb'_append_extractLsb'_eq_extractLsb' (show 10 = 8 + 2 from rfl)]
  exact BitVec.extractLsb'_append_extractLsb'

/-- R86: a USEQ word is made of its two fields. -/
theorem useqWord_fields (u : BitVec 9) : useqWord (uopField u) (jField u) = u :=
  BitVec.extractLsb'_append_extractLsb'

theorem sizeCode_toNat (r : BusReq) : r.sizeCode.toNat = r.t.toNat / 256 % 4 := by
  simp [BusReq.sizeCode, BitVec.extractLsb'_toNat, Nat.shiftRight_eq_div_pow]

theorem offset_toNat (r : BusReq) : r.offset.toNat = r.t.toNat % 256 := by
  simp [BusReq.offset, BitVec.extractLsb'_toNat]

/-! ### The encoder against the bus decoder (R82) -/

/-- R53: the size and the offset that select a target are the target's own. -/
theorem fields_of_target {sz : BitVec 2} {off : BitVec 8} {tgt : Target} (h : decodeTarget sz off = some tgt) :
    sz = BitVec.ofNat 2 (targetSizeCode tgt) ∧ off = BitVec.ofNat 8 (targetOffset tgt) := by
  obtain ⟨hsz, hoff⟩ := (decodeTarget_eq_some_iff sz off tgt).mp h
  simp [← hsz, ← hoff]

theorem byteOffset_eq (n : BitVec 6) : byteOffset n = BitVec.ofNat 8 (targetOffset (.blkByte n)) := by
  revert n; decide

theorem wordOffset_eq (i : BitVec 4) : wordOffset i = BitVec.ofNat 8 (targetOffset (.blkWord i)) := by
  revert i; decide

/-- R88: the read of a target is encoded with the size and the offset that select it. -/
theorem encode_readInstr {sz : BitVec 2} {off : BitVec 8} {tgt : Target} (h : decodeTarget sz off = some tgt) :
    encode (readInstr tgt) = readReq sz off := by
  obtain ⟨rfl, rfl⟩ := fields_of_target h
  cases tgt with
  | h i => fin_cases i <;> rfl
  | blkByte n => rw [← byteOffset_eq]; rfl
  | blkWord i => rw [← wordOffset_eq]; rfl
  | ctrl => rfl
  | status => rfl

/-- R88: the write of a target is encoded with the size and the offset that select it. -/
theorem encode_writeInstr {sz : BitVec 2} {off : BitVec 8} {tgt : Target} (h : decodeTarget sz off = some tgt)
    (v : Word) : encode (writeInstr v tgt) = writeReq sz off v := by
  obtain ⟨rfl, rfl⟩ := fields_of_target h
  cases tgt with
  | h i => fin_cases i <;> rfl
  | blkByte n => rw [← byteOffset_eq]; rfl
  | blkWord i => rw [← wordOffset_eq]; rfl
  | ctrl => rfl
  | status => rfl

/-- R82: a target's read is what its own words decode to. -/
theorem decode_encode_readInstr (tgt : Target) : decode (encode (readInstr tgt)) = .ok (readInstr tgt) := by
  have h := decodeTarget_own tgt
  rw [encode_readInstr h, readReq, decode, decodeBus_busWord, h]; rfl

/-- R82: a target's write is what its own words decode to. -/
theorem decode_encode_writeInstr (tgt : Target) (v : Word) :
    decode (encode (writeInstr v tgt)) = .ok (writeInstr v tgt) := by
  have h := decodeTarget_own tgt
  rw [encode_writeInstr h, writeReq, decode, decodeBus_busWord, h]; rfl

/-- Settles O1: a host access is the read or the write of its target, and each word of the other formats is one of the
few that its decoder lists. -/
theorem decodeOfEncodeIsInstr : Obligations.DecodeOfEncodeIsInstr := by
  intro i hi
  cases i with
  | rd32H0 => exact decode_encode_readInstr (.h 0)
  | rd32H1 => exact decode_encode_readInstr (.h 1)
  | rd32H2 => exact decode_encode_readInstr (.h 2)
  | rd32H3 => exact decode_encode_readInstr (.h 3)
  | rd32H4 => exact decode_encode_readInstr (.h 4)
  | wr32H0 v => exact decode_encode_writeInstr (.h 0) v
  | wr32H1 v => exact decode_encode_writeInstr (.h 1) v
  | wr32H2 v => exact decode_encode_writeInstr (.h 2) v
  | wr32H3 v => exact decode_encode_writeInstr (.h 3) v
  | wr32H4 v => exact decode_encode_writeInstr (.h 4) v
  | wr8Blk n v => exact decode_encode_writeInstr (.blkByte n) v
  | wr32Blk k v => exact decode_encode_writeInstr (.blkWord k) v
  | rd8Blk n => exact decode_encode_readInstr (.blkByte n)
  | rd32Blk k => exact decode_encode_readInstr (.blkWord k)
  | wr32Ctrl c => exact decode_encode_writeInstr .ctrl c
  | rd32Ctrl => exact decode_encode_readInstr .ctrl
  | wr32Status v => exact decode_encode_writeInstr .status v
  | rd32Status => exact decode_encode_readInstr .status
  | nop => rfl
  | compress => rfl
  | f0 b c d => rfl
  | f1 b c d => rfl
  | f2 b c d => rfl
  | f3 b c d => rfl
  | f4 b c d => rfl
  | decode => exact decodeUseq_decode
  | stepl j => exact decodeUseq_stepl (of_decide_eq_true hi)
  | stepr j => exact decodeUseq_stepr (of_decide_eq_true hi)
  | combine => exact decodeUseq_combine

/-! ### The decoders against the encoder (R82 to R86) -/

@[simp] theorem wellFormed_readInstr (tgt : Target) : (readInstr tgt).wellFormed = true := by
  cases tgt with
  | h i => fin_cases i <;> rfl
  | blkByte n => rfl
  | blkWord i => rfl
  | ctrl => rfl
  | status => rfl

@[simp] theorem wellFormed_writeInstr (tgt : Target) (v : Word) : (writeInstr v tgt).wellFormed = true := by
  cases tgt with
  | h i => fin_cases i <;> rfl
  | blkByte n => rfl
  | blkWord i => rfl
  | ctrl => rfl
  | status => rfl

/-- R82: a transaction that decodes has the descriptor of its instruction. -/
theorem encode_of_decodeBus {r : BusReq} {i : Instr} (h : decodeBus r = .ok i) :
    i.wellFormed = true ∧ ∃ v, encode i = .bus ⟨r.t, v⟩ := by
  obtain ⟨tgt, ht, rfl⟩ := decodeBus_ok h
  rw [← busWord_fields r]
  cases r.isWrite with
  | false => exact ⟨wellFormed_readInstr tgt, 0#32, encode_readInstr ht⟩
  | true => exact ⟨wellFormed_writeInstr tgt r.wdata, r.wdata, encode_writeInstr ht r.wdata⟩

/-- R84: a command word that decodes is its command's own. -/
theorem encode_of_decodeCmd {c : Word} {i : Instr} (h : decodeCmd c = .ok i) :
    i.wellFormed = true ∧ encode i = .cmd c := by
  by_cases h0 : c = 0x00000000#32
  · subst h0; cases h; exact ⟨rfl, rfl⟩
  · by_cases h1 : c = 0x00000001#32
    · subst h1; cases h; exact ⟨rfl, rfl⟩
    · rw [decodeCmd, commandOf_reserved h0 h1] at h; cases h

/-- R85: the selector of each round function. -/
def selectorOf : FSel → BitVec 3
  | .f0 => 0b000#3
  | .f1 => 0b001#3
  | .f2 => 0b010#3
  | .f3 => 0b011#3
  | .f4 => 0b100#3

theorem fselOf_eq_some {fs : BitVec 3} {k : FSel} (h : fselOf fs = some k) : fs = selectorOf k := by
  unfold fselOf at h
  split_ifs at h with hfs hfs hfs hfs hfs <;> cases h <;> exact hfs

/-- R85: a selector that decodes, with its operand words, is its instruction's own. -/
theorem encode_of_decodeFsel {f : FselReq} {i : Instr} (h : decodeFsel f = .ok i) :
    i.wellFormed = true ∧ encode i = .fsel f := by
  obtain ⟨fs, b, c, d⟩ := f
  unfold decodeFsel at h
  split at h <;> cases h <;> next hfs => obtain rfl := fselOf_eq_some hfs; exact ⟨rfl, rfl⟩

/-- R86: a micro-operation word that decodes is its instruction's own. -/
theorem encode_of_decodeUseq {u : BitVec 9} {i : Instr} (h : decodeUseq u = .ok i) :
    i.wellFormed = true ∧ encode i = .useq u := by
  rw [← useqWord_fields u]
  unfold decodeUseq at h
  split_ifs at h with hleft hj hright hj hzero hdecode <;> cases h
  · exact ⟨hj, by rw [hleft]; rfl⟩
  · exact ⟨hj, by rw [hright]; rfl⟩
  · exact ⟨rfl, by rw [hzero, hdecode]; rfl⟩
  · have hcombine : uopField u = 0b11#2 := by
      revert hleft hright hdecode; generalize uopField u = uop; revert uop; decide
    exact ⟨rfl, by rw [hzero, hcombine]; rfl⟩

/-- Settles O2: in each format the encoder gives back the word; of a transaction, the descriptor. -/
theorem encodeOfDecodeIsWord : Obligations.EncodeOfDecodeIsWord := by
  intro e i h
  cases e with
  | bus r => obtain ⟨hi, v, henc⟩ := encode_of_decodeBus h; exact ⟨hi, by rw [henc]; rfl, by rw [henc]; rfl⟩
  | cmd c => obtain ⟨hi, henc⟩ := encode_of_decodeCmd h; exact ⟨hi, by rw [henc], by rw [henc]⟩
  | fsel f => obtain ⟨hi, henc⟩ := encode_of_decodeFsel h; exact ⟨hi, by rw [henc], by rw [henc]⟩
  | useq u => obtain ⟨hi, henc⟩ := encode_of_decodeUseq h; exact ⟨hi, by rw [henc], by rw [henc]⟩

/-! ### The opcode map of format BUS (R82, R88) -/

/-- R88: the words of every well-formed instruction fit its row. -/
theorem encode_fits (i : Instr) : Laws.EncodedFits.Statement i := by
  cases i with
  | rd32H0 => exact Laws.EncodedFits.rd32H0
  | rd32H1 => exact Laws.EncodedFits.rd32H1
  | rd32H2 => exact Laws.EncodedFits.rd32H2
  | rd32H3 => exact Laws.EncodedFits.rd32H3
  | rd32H4 => exact Laws.EncodedFits.rd32H4
  | wr32H0 v => exact Laws.EncodedFits.wr32H0 v
  | wr32H1 v => exact Laws.EncodedFits.wr32H1 v
  | wr32H2 v => exact Laws.EncodedFits.wr32H2 v
  | wr32H3 v => exact Laws.EncodedFits.wr32H3 v
  | wr32H4 v => exact Laws.EncodedFits.wr32H4 v
  | wr8Blk n v => exact Laws.EncodedFits.wr8Blk n v
  | wr32Blk k v => exact Laws.EncodedFits.wr32Blk k v
  | rd8Blk n => exact Laws.EncodedFits.rd8Blk n
  | rd32Blk k => exact Laws.EncodedFits.rd32Blk k
  | wr32Ctrl c => exact Laws.EncodedFits.wr32Ctrl c
  | rd32Ctrl => exact Laws.EncodedFits.rd32Ctrl
  | wr32Status v => exact Laws.EncodedFits.wr32Status v
  | rd32Status => exact Laws.EncodedFits.rd32Status
  | nop => exact Laws.EncodedFits.nop
  | compress => exact Laws.EncodedFits.compress
  | f0 b c d => exact Laws.EncodedFits.f0 b c d
  | f1 b c d => exact Laws.EncodedFits.f1 b c d
  | f2 b c d => exact Laws.EncodedFits.f2 b c d
  | f3 b c d => exact Laws.EncodedFits.f3 b c d
  | f4 b c d => exact Laws.EncodedFits.f4 b c d
  | decode => exact Laws.EncodedFits.decode
  | stepl j => exact Laws.EncodedFits.stepl j
  | stepr j => exact Laws.EncodedFits.stepr j
  | combine => exact Laws.EncodedFits.combine

/-- R82: the rows do not overlap: two rows that agree where both masks look are one. -/
theorem busRows_disjoint : ∀ a ∈ busRows, ∀ b ∈ busRows, a.pattern &&& b.mask = b.pattern &&& a.mask → a = b := by
  decide

theorem busRows_nodup : busRows.Nodup := by decide

/-- R82: at most one row fits a descriptor. -/
theorem busRow_unique {a b : OpcodeRow} (ha : a ∈ busRows) (hb : b ∈ busRows) {w : Nat} (hwa : a.fits w = true)
    (hwb : b.fits w = true) : a = b := by
  refine busRows_disjoint a ha b hb ?_
  rw [← beq_iff_eq.mp hwa, ← beq_iff_eq.mp hwb, Nat.and_right_comm]

/-- R82: a row that fits a descriptor is the only one. -/
theorem busRows_filter_fits {row : OpcodeRow} (hrow : row ∈ busRows) {w : Nat} (hfit : row.fits w = true) :
    busRows.filter (fun other => other.fits w) = [row] := by
  have hsame : ∀ other ∈ busRows, other.fits w = (other == row) := fun other ho =>
    Bool.eq_iff_iff.mpr ⟨fun h => beq_iff_eq.mpr (busRow_unique ho hrow h hfit), fun h => beq_iff_eq.mp h ▸ hfit⟩
  rw [List.filter_congr hsame, List.filter_beq, List.count_eq_one_of_mem busRows_nodup hrow]; rfl

/-- R88: every row of format BUS is listed. -/
theorem rowOf_mem_busRows {i : Instr} (h : (rowOf i).format = .bus) : rowOf i ∈ busRows := by
  cases i <;> simp [busRows, rowOf] at h ⊢

/-- R88: a row of format BUS fixes its whole descriptor, which selects a target, or all of it but the byte index n, or
all of it but the word index i. -/
theorem busRow_kinds : ∀ row ∈ busRows,
    (row.mask = 2 ^ 11 - 1 ∧ (BusReq.target ⟨BitVec.ofNat 11 row.pattern, 0⟩).isSome = true)
      ∨ (row.mask = 0x7C0 ∧ row.pattern % 1024 = 0x040) ∨ (row.mask = 0x7C3 ∧ row.pattern % 1024 = 0x240) := by
  decide

/-- A mask that looks at bits 6 to 10 of a word fixes them. -/
theorem bits_of_and_eq {w m p : Nat} (h : w &&& m = p) (hm : m / 2 ^ 6 = 2 ^ 5 - 1) : w / 64 % 32 = p / 64 :=
  calc w / 2 ^ 6 % 2 ^ 5
    _ = w / 2 ^ 6 &&& m / 2 ^ 6 := by rw [hm, Nat.and_two_pow_sub_one_eq_mod]
    _ = p / 2 ^ 6 := by rw [← Nat.and_div_two_pow, h]

/-- R82, R88: a descriptor that fits a row of the opcode map selects a target. -/
theorem target_of_fits {r : BusReq} {row : OpcodeRow} (hrow : row ∈ busRows) (hfit : row.fits r.t.toNat = true) :
    ∃ tgt, r.target = some tgt := by
  have hand : r.t.toNat &&& row.mask = row.pattern := beq_iff_eq.mp hfit
  obtain ⟨hm, htgt⟩ | ⟨hm, hp⟩ | ⟨hm, hp⟩ := busRow_kinds row hrow
  · rw [hm, Nat.and_two_pow_sub_one_of_lt_two_pow r.t.isLt] at hand
    rw [← hand, BitVec.ofNat_toNat, BitVec.setWidth_eq] at htgt
    exact Option.isSome_iff_exists.mp htgt
  · have hhigh := bits_of_and_eq hand (by rw [hm]; rfl)
    refine ⟨.blkByte (BitVec.ofNat 6 r.t.toNat), (decodeTarget_eq_some_iff _ _ _).mpr ?_⟩
    simp only [targetSizeCode, targetOffset, sizeCode_toNat, offset_toNat, BitVec.toNat_ofNat]
    omega
  · have hhigh := bits_of_and_eq hand (by rw [hm]; rfl)
    have hlow : r.t.toNat % 2 ^ 2 = row.pattern % 2 ^ 2 := by
      rw [← hand, hm, Nat.and_mod_two_pow]
      exact (Nat.and_two_pow_sub_one_of_lt_two_pow (n := 2) (by omega)).symm
    refine ⟨.blkWord (BitVec.ofNat 4 (r.t.toNat / 4)), (decodeTarget_eq_some_iff _ _ _).mpr ?_⟩
    simp only [targetSizeCode, targetOffset, sizeCode_toNat, offset_toNat, BitVec.toNat_ofNat]
    omega

/-- Settles O3: the words of an instruction fit its row, no two rows overlap, and a descriptor that fits a row has a
target. -/
theorem busDecodeIsTheOpcodeMap : Obligations.BusDecodeIsTheOpcodeMap := by
  intro r
  cases hd : decodeBus r with
  | ok i =>
    obtain ⟨hi, v, henc⟩ := encode_of_decodeBus hd
    obtain ⟨hformat, hfits⟩ := encode_fits i hi
    rw [henc] at hformat hfits
    exact busRows_filter_fits (rowOf_mem_busRows hformat.symm) hfits
  | error e =>
    obtain ⟨hnone, he⟩ := decodeBus_error hd
    refine ⟨he, List.filter_eq_nil_iff.mpr fun row hrow hfit => ?_⟩
    obtain ⟨tgt, htgt⟩ := target_of_fits hrow hfit
    simp [hnone] at htgt

/-! ### Reserved words (R84 to R86, R89) -/

/-- R85: a selector of a round function's number is its selector. -/
theorem decodeFsel_of_toNat {f : FselReq} (k : FSel) (h : f.fs.toNat = (selectorOf k).toNat) :
    decodeFsel f = decodeFsel ⟨selectorOf k, f.b, f.c, f.d⟩ := by
  rw [← BitVec.eq_of_toNat_eq h]

/-- R85, R89: the selectors 101, 110 and 111 are reserved. -/
theorem decodeFsel_reserved {f : FselReq} (h : 5 ≤ f.fs.toNat) : decodeFsel f = .error .reservedFsel := by
  have hnone : ∀ fs : BitVec 3, 5 ≤ fs.toNat → fselOf fs = none := by decide
  rw [decodeFsel, hnone _ h]

/-- R86, R89: the step numbers 80..127 are reserved on both sides. -/
theorem decodeUseq_stepl_reserved {j : BitVec 7} (h : 80 ≤ j.toNat) :
    decodeUseq (useqWord 0b01#2 j) = .error .reservedUseq := by
  simp [decodeUseq, stepInRange, Nat.not_lt.mpr h]

theorem decodeUseq_stepr_reserved {j : BitVec 7} (h : 80 ≤ j.toNat) :
    decodeUseq (useqWord 0b10#2 j) = .error .reservedUseq := by
  simp [decodeUseq, stepInRange, Nat.not_lt.mpr h]

/-- R86, R89: DECODE and COMBINE take no step number but 0. -/
theorem decodeUseq_decode_reserved {j : BitVec 7} (h : j ≠ 0#7) :
    decodeUseq (useqWord 0b00#2 j) = .error .reservedUseq := by
  simp [decodeUseq, h]

theorem decodeUseq_combine_reserved {j : BitVec 7} (h : j ≠ 0#7) :
    decodeUseq (useqWord 0b11#2 j) = .error .reservedUseq := by
  simp [decodeUseq, h]

/-- R84, R89: the command words from 2 on are reserved. -/
theorem decodeCmd_reserved {c : Word} (h : 2 ≤ c.toNat) : decodeCmd c = .error .reservedCommand := by
  rw [decodeCmd, commandOf_reserved (by rintro rfl; simp at h) (by rintro rfl; simp at h)]

/-- Settles O5: a selector or a command word is one of those listed or reserved, and a micro-operation word decodes by
its field UOP. -/
theorem reservedEncodingsAreRejected : Obligations.ReservedEncodingsAreRejected := by
  refine ⟨fun f => ?_, fun j => ?_, fun c => ?_⟩
  · exact ⟨decodeFsel_of_toNat .f0, decodeFsel_of_toNat .f1, decodeFsel_of_toNat .f2, decodeFsel_of_toNat .f3,
      decodeFsel_of_toNat .f4, decodeFsel_reserved⟩
  · refine ⟨fun h => ⟨decodeUseq_stepl h, decodeUseq_stepr h⟩,
      fun h => ⟨decodeUseq_stepl_reserved h, decodeUseq_stepr_reserved h⟩, fun h => ?_, fun h => ?_⟩
    · obtain rfl : j = 0#7 := BitVec.eq_of_toNat_eq h
      exact ⟨decodeUseq_decode, decodeUseq_combine⟩
    · have hj : j ≠ 0#7 := by rintro rfl; exact h rfl
      exact ⟨decodeUseq_decode_reserved hj, decodeUseq_combine_reserved hj⟩
  · refine ⟨fun h => ?_, fun h => ?_, decodeCmd_reserved⟩
    · obtain rfl : c = 0x00000000#32 := BitVec.eq_of_toNat_eq h
      rfl
    · obtain rfl : c = 0x00000001#32 := BitVec.eq_of_toNat_eq h
      rfl

/-- Settles O6: each word's size and offset select its target, the write bit picks the instruction, and the words of the
other formats evaluate. -/
theorem sampleWordsDecode : Obligations.SampleWordsDecode :=
  ⟨decodeBus_of_target (tgt := .h 4) rfl, decodeBus_of_target (tgt := .h 1) rfl,
    decodeBus_of_target (tgt := .blkByte 63#6) rfl, decodeBus_of_target (tgt := .blkWord 15#4) rfl,
    decodeBus_of_target (tgt := .ctrl) rfl, decodeBus_of_target (tgt := .status) rfl, rfl, rfl,
    decodeUseq_stepl (j := 79#7) (by decide), decodeUseq_combine⟩

/-- Settles O26: both steps end in the check of the step number. -/
theorem reservedStepIsRefused : Obligations.ReservedStepIsRefused := fun _ _ hj =>
  ⟨microStep_reserved hj _, microStep_reserved hj _⟩

end Sys2Proof.Machine
end

section
/-! SUPPORT. What each access of the host interface answers, changes and leaves (40_host_interface.md R111 to R122), and
which instruction a step runs (R111, 45_pipelines.md R207). -/

namespace Sys2Proof.Machine

/-! ### The descriptors of the opcode map (R82, R88) -/

/-- R82: a descriptor with W = 0 is the read of its target. -/
theorem decodeBus_read {t : BitVec 11} {tgt : Target}
    (h : decodeTarget (t.extractLsb' 8 2) (t.extractLsb' 0 8) = some tgt ∧ t.getLsbD 10 = false) (v : Word) :
    decodeBus ⟨t, v⟩ = .ok (readInstr tgt) := by
  obtain ⟨htgt, hw⟩ := h
  rw [decodeBus_of_target htgt, hw]; rfl

/-- R82: a descriptor with W = 1 is the write of its target. -/
theorem decodeBus_write {t : BitVec 11} {tgt : Target}
    (h : decodeTarget (t.extractLsb' 8 2) (t.extractLsb' 0 8) = some tgt ∧ t.getLsbD 10 = true) (v : Word) :
    decodeBus ⟨t, v⟩ = .ok (writeInstr v tgt) := by
  obtain ⟨htgt, hw⟩ := h
  rw [decodeBus_of_target htgt, hw]; rfl

/-- R88: `1 10 000iii00`. -/
theorem decodeBus_wr32H (i : Fin 5) (v : Word) :
    decodeBus ⟨0b110000#6 ++ BitVec.ofNat 3 i.val ++ 0b00#2, v⟩ = .ok (wr32H v i) := by
  rw [← writeInstr_h]
  exact decodeBus_write (by revert i; decide) v

/-- R88: `1 00 01nnnnnn`. -/
theorem decodeBus_wr8Blk (n : BitVec 6) (v : Word) : decodeBus ⟨0b10001#5 ++ n, v⟩ = .ok (.wr8Blk n v) :=
  decodeBus_write (tgt := .blkByte n) (by revert n; decide) v

/-- R88: `1 10 01iiii00`. -/
theorem decodeBus_wr32Blk (i : BitVec 4) (v : Word) :
    decodeBus ⟨0b11001#5 ++ i ++ 0b00#2, v⟩ = .ok (.wr32Blk i v) :=
  decodeBus_write (tgt := .blkWord i) (by revert i; decide) v

/-- R88: `0 00 01nnnnnn`. -/
theorem decodeBus_rd8Blk (n : BitVec 6) (v : Word) : decodeBus ⟨0b00001#5 ++ n, v⟩ = .ok (.rd8Blk n) :=
  decodeBus_read (tgt := .blkByte n) (by revert n; decide) v

/-- R88: `0 10 01iiii00`. -/
theorem decodeBus_rd32Blk (i : BitVec 4) (v : Word) : decodeBus ⟨0b01001#5 ++ i ++ 0b00#2, v⟩ = .ok (.rd32Blk i) :=
  decodeBus_read (tgt := .blkWord i) (by revert i; decide) v

/-- R88: `1 10 11110000`. -/
theorem decodeBus_wr32Ctrl (v : Word) : decodeBus ⟨0b11011110000#11, v⟩ = .ok (.wr32Ctrl v) :=
  decodeBus_write (tgt := .ctrl) (by decide) v

/-- R88: `0 10 11110000`. -/
theorem decodeBus_rd32Ctrl (v : Word) : decodeBus ⟨0b01011110000#11, v⟩ = .ok .rd32Ctrl :=
  decodeBus_read (tgt := .ctrl) (by decide) v

/-- R88: `1 10 11110100`. -/
theorem decodeBus_wr32Status (v : Word) : decodeBus ⟨0b11011110100#11, v⟩ = .ok (.wr32Status v) :=
  decodeBus_write (tgt := .status) (by decide) v

/-- R88: `0 10 11110100`. -/
theorem decodeBus_rd32Status (v : Word) : decodeBus ⟨0b01011110100#11, v⟩ = .ok .rd32Status :=
  decodeBus_read (tgt := .status) (by decide) v

/-! ### What an answer and a write leave as it was -/

/-- R110: an answer touches the request and response channels alone. -/
theorem answer_sameEngine (s : State) (w : Word) (e : Bool) : SameEngine s (s.answer w e) :=
  ⟨⟨fun _ => rfl, rfl⟩, ⟨fun _ => rfl, rfl⟩, s.answer_errBit w e, ⟨rfl, rfl, rfl⟩, ⟨rfl, rfl, rfl, rfl, rfl⟩,
    ⟨rfl, rfl, rfl, rfl, rfl⟩⟩

/-- The state with other inputs of a COMPRESS, which are H, BLK and their valid bits. -/
def State.withInputs (s : State) (h : HFile) (hvalid : BitVec 5) (blk : List Host.Cell) (bvalid : BitVec 64) : State :=
  { s with h := h, hvalid := hvalid, blk := blk, bvalid := bvalid }

/-- R113, R115, R116: what every acknowledged write of H or BLK leaves as it was, and its response. -/
theorem ack_withInputs_frame (s : State) (h : HFile) (hvalid : BitVec 5) (blk : List Host.Cell) (bvalid : BitVec 64) :
    let t := (s.withInputs h hvalid blk bvalid).ack
    SameErrors s t ∧ SameCommand s t ∧ SamePipelines s t ∧ SameWorld s t ∧ SameFree s t ∧ Answered t 0#32 false :=
  ⟨fun c => by cases c <;> rfl, ⟨rfl, rfl, rfl⟩, ⟨rfl, rfl, rfl, rfl, rfl⟩, ⟨rfl, rfl, rfl, rfl, rfl⟩, ⟨rfl, rfl⟩,
    ⟨rfl, rfl⟩⟩

/-! ### Reads and writes of the state words (R112, R113) -/

/-- R112: RD32.Hi by number. -/
theorem exec_rd32H_eq (i : Fin 5) (s : State) : exec (rd32H i) s = access s (s.readH i) := by
  rw [← readInstr_h, exec_readInstr]; rfl

/-- R113: WR32.Hi by number. -/
theorem exec_wr32H_eq (i : Fin 5) (v : Word) (s : State) : exec (wr32H v i) s = access s (s.writeH i v).ack := by
  rw [← writeInstr_h, exec_writeInstr]; rfl

/-- Settles O7: a performed read answers the word or a draw, by its valid bit. -/
theorem readStateWord : Obligations.ReadStateWord := by
  intro i s
  rw [exec_rd32H_eq]
  refine ⟨fun hb => ?_, fun hb => access_busy hb _⟩
  rw [access_free hb]
  rcases s.readH_cases i with ⟨hv, hread⟩ | ⟨hv, hread⟩ <;> rw [hread]
  · exact ⟨_, _, rfl, ⟨rfl, rfl⟩, answer_sameEngine s _ _, rfl, fun _ => ⟨rfl, rfl⟩, by simp [hv]⟩
  · exact ⟨_, _, rfl, ⟨rfl, rfl⟩, answer_sameEngine { s with draws := s.draws + 1 } _ _, rfl, by simp [hv],
      fun _ => ⟨rfl, rfl⟩⟩

/-- Settles O8: a performed write sets the word and its valid bit. -/
theorem writeStateWord : Obligations.WriteStateWord := by
  intro i v s
  rw [exec_wr32H_eq]
  refine ⟨decodeBus_wr32H i v, fun hb => ?_, fun hb => access_busy hb _⟩
  refine ⟨(s.writeH i v).ack, access_free hb _, by simp, by simp, fun j hj => ?_, ⟨fun _ => rfl, rfl⟩,
    ack_withInputs_frame s _ _ _ _⟩
  simp [hj.symm]

/-! ### Writes of the block buffer (R115, R116) -/

/-- Settles O9: a performed write sets the byte and its valid bit. -/
theorem writeBlockByte : Obligations.WriteBlockByte := by
  intro n w s hm
  refine ⟨decodeBus_wr8Blk n w, fun hb => ?_, exec_held rfl⟩
  refine ⟨(s.writeByte n.toNat (lane w 0)).ack, access_free hb _, ?_, ?_, fun k hk => ⟨?_, ?_⟩, ⟨fun _ => rfl, rfl⟩,
    ack_withInputs_frame s _ _ _ _⟩
  · exact (State.writeByte_blkByte hm n.toNat n.toNat (lane w 0)).trans (if_pos rfl)
  · simp [n.isLt]
  · exact (State.writeByte_blkByte hm n.toNat k (lane w 0)).trans (if_neg hk.symm)
  · simp [hk.symm]

/-- R55, R56: the four lanes of a word, the last one first, make the word. -/
theorem append_lanes (v : Word) : lane v 3 ++ lane v 2 ++ lane v 1 ++ lane v 0 = v := by
  unfold lane
  rw [BitVec.extractLsb'_append_extractLsb'_eq_extractLsb' (by rfl),
    BitVec.extractLsb'_append_extractLsb'_eq_extractLsb' (by rfl),
    BitVec.extractLsb'_append_extractLsb'_eq_extractLsb' (by rfl)]
  exact BitVec.extractLsb'_eq_self

/-- R116: lane k of the written word stands at byte 4i + k. -/
theorem writeBlkWord_blkByte_lane {s : State} (hm : MemoryOk s) (i : BitVec 4) (v : Word) {k : Nat} (hk : k < 4) :
    (s.writeBlkWord i v).blkByte (4 * i.toNat + k) = lane v k := by
  rw [State.writeBlkWord_blkByte hm, if_pos (by omega), Nat.mul_add_mod, Nat.mod_eq_of_lt hk]

/-- R116, R160: after the write the schedule word is the written word. -/
theorem scheduleWord_writeBlkWord {s : State} (hm : MemoryOk s) (i : BitVec 4) (v : Word) :
    scheduleWord (s.writeBlkWord i v).blkByte i.toNat = v := by
  rw [scheduleWord, writeBlkWord_blkByte_lane hm i v (by decide : 3 < 4),
    writeBlkWord_blkByte_lane hm i v (by decide : 2 < 4), writeBlkWord_blkByte_lane hm i v (by decide : 1 < 4)]
  exact (congrArg _ (writeBlkWord_blkByte_lane hm i v (by decide : 0 < 4))).trans (append_lanes v)

/-- Settles O10: a performed write sets the four bytes of the word, lane by lane, and their valid bits. -/
theorem writeBlockWord : Obligations.WriteBlockWord := by
  intro i v s hm
  refine ⟨decodeBus_wr32Blk i v, fun hb => ?_, exec_held rfl⟩
  refine ⟨(s.writeBlkWord i v).ack, access_free hb _, fun k hk => ⟨writeBlkWord_blkByte_lane hm i v hk, ?_⟩,
    scheduleWord_writeBlkWord hm i v, fun n hn => ?_, ⟨fun _ => rfl, rfl⟩, ack_withInputs_frame s _ _ _ _⟩
  · have hword : (4 * i.toNat + k) / 4 = i.toNat := by omega
    simp [hword]
  · have hword : n / 4 ≠ i.toNat := by omega
    exact ⟨(State.writeBlkWord_blkByte hm i v n).trans (if_neg hword), by simp [hword]⟩

/-! ### Reads of the block buffer and of CTRL (R117, R118, R120) -/

/-- R117, R118, R120: performed, a read that shows nothing answers 0 and changes nothing else. -/
theorem accessReadZero_free {s : State} (hb : s.busy = false) :
    ∃ t, accessReadZero s = .next t ∧ Answered t 0#32 false ∧ SameEngine s t ∧ SameFree s t :=
  ⟨_, access_free hb _, ⟨rfl, rfl⟩, answer_sameEngine s _ _, ⟨rfl, rfl⟩⟩

/-- Settles O12: the three reads have one meaning, which answers 0. -/
theorem blockAndControlReadsAnswerZero : Obligations.BlockAndControlReadsAnswerZero := by
  intro n k w i s hi
  have hread : exec i s = accessReadZero s := by rcases hi with rfl | rfl | rfl <;> rfl
  rw [hread]
  exact ⟨decodeBus_rd8Blk n w, decodeBus_rd32Blk k w, decodeBus_rd32Ctrl w, accessReadZero_free,
    fun hb => access_busy hb _⟩

/-! ### STATUS (R121, R122) -/

/-- Settles O13: the write is acknowledged whatever BUSY is, and is nothing but its answer. -/
theorem statusWriteIsIgnored : Obligations.StatusWriteIsIgnored := fun w s =>
  ⟨decodeBus_wr32Status w, s.ack, rfl, ⟨rfl, rfl⟩, answer_sameEngine s _ _, ⟨rfl, rfl⟩⟩

/-- R26: the STATUS word, bit by bit from the least significant one. -/
theorem State.statusWord_eq_concat (s : State) :
    s.statusWord = ((((((((0#19 ++ s.hvalid).concat false).concat s.blkFull).concat s.errBus).concat s.errCmd).concat
      s.errState).concat s.errBlock).concat s.done).concat s.busy := rfl

section
variable (s : State)

theorem State.statusWord_busy : s.statusWord.getLsbD 0 = s.busy := by simp [statusWord_eq_concat]
theorem State.statusWord_done : s.statusWord.getLsbD 1 = s.done := by simp [statusWord_eq_concat]
theorem State.statusWord_errBlock : s.statusWord.getLsbD 2 = s.errBlock := by simp [statusWord_eq_concat]
theorem State.statusWord_errState : s.statusWord.getLsbD 3 = s.errState := by simp [statusWord_eq_concat]
theorem State.statusWord_errCmd : s.statusWord.getLsbD 4 = s.errCmd := by simp [statusWord_eq_concat]
theorem State.statusWord_errBus : s.statusWord.getLsbD 5 = s.errBus := by simp [statusWord_eq_concat]
theorem State.statusWord_blkFull : s.statusWord.getLsbD 6 = s.blkFull := by simp [statusWord_eq_concat]
theorem State.statusWord_bit7 : s.statusWord.getLsbD 7 = false := by simp [statusWord_eq_concat]

/-- R26: from bit 8 on, STATUS shows HVALID and then zeros. -/
theorem State.statusWord_hvalid (k : Nat) : s.statusWord.getLsbD (8 + k) = s.hvalid.getLsbD k := by
  rw [Nat.add_comm, statusWord_eq_concat]
  simp only [BitVec.getLsbD_concat_succ]
  rw [BitVec.getLsbD_append]
  split
  · rfl
  · next hk => rw [BitVec.getLsbD_zero, BitVec.getLsbD_of_ge _ _ (not_lt.mp hk)]

theorem State.statusWord_reserved {k : Nat} (hk : 13 ≤ k) : s.statusWord.getLsbD k = false := by
  obtain ⟨m, rfl⟩ := Nat.exists_eq_add_of_le hk
  rw [show 13 + m = 8 + (5 + m) by omega, statusWord_hvalid, BitVec.getLsbD_of_ge _ _ (Nat.le_add_right 5 m)]

end

/-- R122: in flight STATUS shows BUSY 1, DONE 0 and BLK_FULL 1. -/
theorem State.statusWord_inFlight {s : State} (hheld : InputsHeld s) (hb : s.busy = true) :
    s.statusWord.getLsbD 0 = true ∧ s.statusWord.getLsbD 1 = false ∧ s.statusWord.getLsbD 6 = true := by
  obtain ⟨-, hfull, hdone⟩ := hheld hb
  exact ⟨s.statusWord_busy.trans hb, s.statusWord_done.trans hdone, s.statusWord_blkFull.trans hfull⟩

/-- Settles O14: the answer is the STATUS word, whose bits the lemmas above give; in flight the inputs are held. -/
theorem statusReadAnswersEveryField : Obligations.StatusReadAnswersEveryField := fun w s =>
  ⟨decodeBus_rd32Status w, s.answer s.statusWord false, s.statusWord, rfl, ⟨rfl, rfl⟩, answer_sameEngine s _ _,
    ⟨rfl, rfl⟩, s.statusWord_busy, s.statusWord_done, s.statusWord_errBlock, s.statusWord_errState,
    s.statusWord_errCmd, s.statusWord_errBus, s.statusWord_blkFull ▸ s.blkFull_iff, s.statusWord_bit7,
    fun i => s.statusWord_hvalid i, fun _ => s.statusWord_reserved, State.statusWord_inFlight⟩

/-! ### Writes of CTRL (R119, R145, R232) -/

/-- R119: a CTRL write that is performed runs its word's command and is acknowledged. -/
theorem exec_wr32Ctrl_free {s : State} (hb : s.busy = false) (c : Word) :
    exec (.wr32Ctrl c) s = .next (s.command (commandOf c)).ack := access_free hb _

/-- R84: the command words from 2 on name no command. -/
theorem commandOf_of_two_le {c : Word} (h : 2 ≤ c.toNat) : commandOf c = .reserved :=
  commandOf_reserved (by rintro rfl; simp at h) (by rintro rfl; simp at h)

/-- Settles O16: the words 0 and 1 name the two commands, and every other raises ERR_CMD alone. -/
theorem controlWriteRunsCommand : Obligations.ControlWriteRunsCommand := by
  intro c s
  refine ⟨decodeBus_wr32Ctrl c, fun h => ?_, fun h => ?_, exec_held rfl, fun hb => ?_⟩
  · obtain rfl : c = 0x00000000#32 := BitVec.eq_of_toNat_eq h
    rfl
  · obtain rfl : c = 0x00000001#32 := BitVec.eq_of_toNat_eq h
    rfl
  · refine ⟨_, exec_wr32Ctrl_free hb c, ⟨rfl, rfl⟩, fun h => ⟨decodeCmd_reserved h, ?_⟩⟩
    rw [commandOf_of_two_le h]
    refine ⟨by simp, fun d hd => ?_, ⟨fun _ => rfl, rfl⟩, ⟨fun _ => rfl, rfl⟩, ⟨rfl, rfl, rfl⟩,
      ⟨rfl, rfl, rfl, rfl, rfl⟩, ⟨rfl, rfl, rfl, rfl, rfl⟩, ⟨rfl, rfl⟩⟩
    simp [hd.symm]

/-! ### Which instruction a step runs (R111, R207) -/

/-- R85: a selector that decodes runs as its instruction, before a transaction and before the sequencer (log entry 12). -/
theorem step_select {s : State} {f : FselReq} {i : Instr} (hr : s.rst = false) (hf : s.fsel = some f)
    (hd : decodeFsel f = .ok i) : step s = exec i s := by
  simp [step, nextTurn, fselTurn, hr, hf, hd]

/-- R207: in ROUNDS the sequencer issues a left step when one is next. -/
theorem engineMove_stepl {s : State} (hs : s.seq = .rounds) (hj : s.jL.toNat < 80) (hl : leftNext s = true) :
    engineMove s = some (.instr (.stepl s.jL)) := by
  simp [engineMove, microWord, microTurn, hs, hl, decodeUseq_stepl hj]

/-- R207: in ROUNDS the sequencer issues a right step when no left one is next. -/
theorem engineMove_stepr {s : State} (hs : s.seq = .rounds) (hj : s.jR.toNat < 80) (hl : leftNext s = false) :
    engineMove s = some (.instr (.stepr s.jR)) := by
  simp [engineMove, microWord, microTurn, hs, hl, hj, decodeUseq_stepr hj]

/-- R206: with both pipelines still to step, the free schedule says which is next (log entry 6). -/
theorem leftNext_of_both {s : State} (hj : s.jL.toNat < 80) (hk : s.jR.toNat < 80) :
    leftNext s = Config.leftFirst s.engine s.sched := by
  simp [leftNext, hj, hk]

/-- Settles O32: the port's transaction or selector is the step, and else the sequencer's move in its phase. -/
theorem stepRunsTheDecodedInstruction : Obligations.StepRunsTheDecodedInstruction := by
  refine ⟨fun s r i hr hf hq hd hfree => ?_, fun s f i hr hf hd => step_select hr hf hd, fun s ha => ?_⟩
  · exact step_access hr hf hq hd (by rcases hfree with h | h <;> simp [h])
  · refine ⟨fun hs => step_alone ha (engineMove_decode hs), fun hs hj hk => ?_, fun hs hj hk => ?_,
      fun hs hj hk => ?_, fun hs => step_alone ha (engineMove_combine hs)⟩
    · exact step_alone ha (engineMove_stepl hs hj (by simp [leftNext, hj, hk]))
    · exact step_alone ha (engineMove_stepr hs hk (by simp [leftNext, Nat.not_lt.mpr hj]))
    · have hnext := leftNext_of_both hj hk
      cases hl : Config.leftFirst s.engine s.sched <;> rw [hl] at hnext
      · exact step_alone ha (engineMove_stepr hs hk hnext)
      · exact step_alone ha (engineMove_stepl hs hj hnext)

end Sys2Proof.Machine
end

section
/-! SUPPORT. The progress of a COMPRESS in flight (41_compress.md R143, 60_exceptions.md R237): every step before its
completion makes one of two amounts of work smaller, the sequencer's or the host's; the commands NOP and COMPRESS (R140,
R141, R144); and what the transform reads (R142). -/

namespace Sys2Proof.Machine

/-! ### The completion of a COMPRESS in flight (R143, R237) -/

/-- R237: a host access always answers a next state, held or performed. -/
theorem access_total (s p : State) : ∃ t, access s p = .next t := by
  cases hb : s.busy with
  | true => exact ⟨s, access_busy hb p⟩
  | false => exact ⟨p, access_free hb p⟩

/-- R237: a transaction that decodes answers a next state. -/
theorem exec_decodeBus_total {r : BusReq} {i : Instr} (hd : decodeBus r = .ok i) (s : State) :
    ∃ t, exec i s = .next t := by
  obtain ⟨tgt, -, rfl⟩ := decodeBus_ok hd
  split
  · rw [exec_writeInstr]
    cases tgt with
    | status => exact ⟨_, rfl⟩
    | h k | blkByte n | blkWord k | ctrl => exact access_total s _
  · rw [exec_readInstr]
    cases tgt with
    | status => exact ⟨_, rfl⟩
    | h k | blkByte n | blkWord k | ctrl => exact access_total s _

/-- R237: with no transaction to answer, the step answers a next state: the sequencer issues no reserved word. -/
theorem step_wait_total {s : State} (hn : nextTurn s = waitTurn s) : ∃ t, step s = .next t := by
  rw [step, hn]
  rcases waitTurn_cases s with ⟨e, he, hw⟩ | ⟨u, -, hw⟩ | ⟨-, -, hw⟩ <;> rw [hw]
  · rcases engineMove_cases s with ⟨_, hm⟩ | ⟨_, hm⟩ | ⟨_, hj, _, hm⟩ | ⟨_, hj, _, hm⟩ | ⟨_, _, _, hm⟩ | ⟨_, hm⟩ <;>
      rw [hm] at he <;> cases he
    · exact ⟨_, rfl⟩
    · exact ⟨_, microStep_inRange hj _⟩
    · exact ⟨_, microStep_inRange hj _⟩
    · exact ⟨_, rfl⟩
    · exact ⟨_, rfl⟩
  · exact ⟨u, rfl⟩
  · exact ⟨s, rfl⟩

/-- R237: with no selector pending (log entry 12), every step answers a next state. -/
theorem step_total {s : State} (hf : s.fsel = none) : ∃ t, step s = .next t := by
  cases hr : s.rst with
  | true => exact ⟨_, step_reset hr⟩
  | false =>
    cases hq : s.req with
    | none => exact step_wait_total (nextTurn_eq_waitTurn hr hf hq)
    | some r =>
      cases hd : decodeBus r with
      | error e => exact ⟨_, step_busError hr hf hq hd⟩
      | ok i =>
        cases hb : (s.busy && i.holdable) with
        | true => exact step_wait_total (by simp only [nextTurn, reqTurn, hr, hf, hq, hd, hb]; simp)
        | false => rw [step_access hr hf hq hd hb]; exact exec_decodeBus_total hd s

/-- A COMPRESS is in flight, with no reset and no selector pending or to come. -/
structure InFlight (s : State) : Prop where
  inv : EngineInv s
  rst : s.rst = false
  fsel : s.fsel = none
  busy : s.busy = true
  host : ∀ e, e ∈ s.host → e ≠ .reset

/-- R207: the micro-operations that the sequencer has to issue before COMBINE. -/
def State.opsBeforeCombine (s : State) : Nat := if s.seq = .decode then 161 else 160 - s.jL.toNat - s.jR.toNat

/-- R61: the steps that the host's accesses can still take while BUSY: to present each one and to answer it. -/
def State.hostSteps (s : State) : Nat := 2 * s.host.length + s.req.toList.length

/-- R143: what `t` shows of the completion of the COMPRESS in flight in `s`. -/
def Completion (s t : State) : Prop := t.busy = false ∧ t.done = true ∧ t.h = compress s.h s.blkByte

/-- Everything one step can do while a COMPRESS is in flight. -/
inductive FlightStep (s t : State) : Prop where
  /-- R221: COMBINE. -/
  | completes (hc : Completion s t)
  /-- R207: another micro-operation of the sequencer. -/
  | micro (hk : SameInputs s t) (hfl : InFlight t) (hq : t.req = s.req) (hh : t.host = s.host)
      (hops : t.opsBeforeCombine < s.opsBeforeCombine)
  /-- R61, R62: an access is presented or answered. -/
  | host (hk : SameInputs s t) (hfl : InFlight t) (hops : t.opsBeforeCombine = s.opsBeforeCombine)
      (hsteps : t.hostSteps < s.hostSteps) (ha : ¬EngineAlone s)

/-- A step that leaves BUSY set and raises neither reset nor a selector leaves the COMPRESS in flight. -/
theorem InFlight.next {s t : State} (hfl : InFlight s) (h : step s = .next t) (hr : t.rst = s.rst)
    (hf : t.fsel = s.fsel) (hb : t.busy = s.busy) (hh : t.host ⊆ s.host) : InFlight t :=
  ⟨stepKeepsEngineInv s t hfl.inv h, hr.trans hfl.rst, hf.trans hfl.fsel, hb.trans hfl.busy,
    fun e he => hfl.host e (hh he)⟩

/-- R207: in ROUNDS the work before COMBINE is what the two counters leave. -/
theorem opsBeforeCombine_rounds {s : State} (hs : s.seq = .rounds) :
    s.opsBeforeCombine = 160 - s.jL.toNat - s.jR.toNat := if_neg (by simp [hs])

/-- R207: from ROUNDS the sequencer does not go back to DECODE. -/
theorem opsBeforeCombine_afterStep {s : State} (hs : s.seq = .rounds) :
    s.afterStep.opsBeforeCombine = 160 - s.jL.toNat - s.jR.toNat := by
  refine if_neg ?_
  rw [State.afterStep_seq, hs]; split <;> simp

theorem opsBeforeCombine_stepLeft {s : State} (hp : PhaseOk s) (hs : s.seq = .rounds) (hj : s.jL.toNat < 80) :
    (s.stepLeft s.jL.toNat).afterStep.opsBeforeCombine < s.opsBeforeCombine := by
  obtain ⟨-, hrounds, -⟩ := hp
  obtain ⟨-, hk, -⟩ := hrounds hs
  rw [opsBeforeCombine_afterStep (by simp [hs]), opsBeforeCombine_rounds hs, State.stepLeft_jL, State.stepLeft_jR,
    counter_succ hj]
  omega

theorem opsBeforeCombine_stepRight {s : State} (hp : PhaseOk s) (hs : s.seq = .rounds) (hj : s.jR.toNat < 80) :
    (s.stepRight s.jR.toNat).afterStep.opsBeforeCombine < s.opsBeforeCombine := by
  obtain ⟨-, hrounds, -⟩ := hp
  obtain ⟨hk, -, -⟩ := hrounds hs
  rw [opsBeforeCombine_afterStep (by simp [hs]), opsBeforeCombine_rounds hs, State.stepRight_jL, State.stepRight_jR,
    counter_succ hj]
  omega

/-- R142, R208, R221: COMBINE, on quintuples that have done their 80 steps, completes the COMPRESS. -/
theorem completion_combine {s : State} (hi : EngineInv s) (hs : s.seq = .combine) :
    Completion s (s.combineState.enter .idle) := by
  obtain ⟨-, ⟨-, -, hdone⟩, -, hflight⟩ := hi
  obtain ⟨hjL, hjR⟩ := hdone hs
  obtain ⟨-, hleft, hright⟩ := hflight (.inr hs)
  refine ⟨rfl, rfl, ?_⟩
  rw [State.enter_h, State.combineState_eq, State.completeWith_h, compress_eq, hleft, hright, hjL, hjR]

/-- R58: with only the sequencer able to move, a transaction at the request port decodes and is held. -/
theorem held_of_engineAlone {s : State} {r : BusReq} (ha : EngineAlone s) (hq : s.req = some r) :
    ∃ i, decodeBus r = .ok i ∧ (s.busy && i.holdable) = true := by
  obtain ⟨-, -, -, hnone | ⟨r', i, hq', hd, hb, hh⟩⟩ := ha
  · rw [hq] at hnone; cases hnone
  · rw [hq] at hq'; cases hq'
    exact ⟨i, hd, by simp [hb, hh]⟩

/-- R110: an answer takes the pending transaction off the port. -/
theorem hostSteps_answer {s : State} {r : BusReq} (hq : s.req = some r) (w : Word) (e : Bool) :
    (s.answer w e).hostSteps < s.hostSteps := by
  simp [State.hostSteps, hq]

/-- R61, R62: while a COMPRESS is in flight the outside world presents an access, no reset being to come. -/
theorem flightStep_outside {s t : State} (hfl : InFlight s) (h : step s = .next t) (ho : outsideMove s = some t) :
    FlightStep s t := by
  have ha : ¬EngineAlone s := fun ⟨_, _, hno, _⟩ => by rw [ho] at hno; cases hno
  rcases outsideMove_some ho with ⟨rest, hh, -⟩ | ⟨r, rest, hh, hq, rfl⟩
  · exact absurd rfl (hfl.host .reset (by simp [hh]))
  · refine .host ⟨rfl, rfl, rfl, rfl⟩ (hfl.next h rfl rfl rfl (by simp [hh])) rfl ?_ ha
    simp only [State.hostSteps, hh, hq, List.length_cons, Option.toList_some, Option.toList_none, List.length_nil]
    omega

/-- R143, R237: a step while a COMPRESS is in flight completes it or does some of the work that is left. -/
theorem flightStep_of_step {s t : State} (hfl : InFlight s) (h : step s = .next t) : FlightStep s t := by
  obtain ⟨-, hp, -, -⟩ := hfl.inv
  cases step_cases h with
  | reset hr ht => rw [hfl.rst] at hr; cases hr
  | select f i hr hf hd ht => rw [hfl.fsel] at hf; cases hf
  | access r i hr hf hq hd hb ht =>
    have ha : ¬EngineAlone s := fun ha => by
      obtain ⟨i', hd', hb'⟩ := held_of_engineAlone ha hq
      rw [hd] at hd'; cases hd'
      rw [hb] at hb'; cases hb'
    cases exec_access hd hb ht with
    | answered w ht =>
      subst ht
      exact .host ⟨rfl, rfl, rfl, rfl⟩ (hfl.next h rfl rfl rfl (List.Subset.refl _)) rfl (hostSteps_answer hq w false) ha
    | readH i hf ht | writeH i v hf ht | writeByte n b hf ht | writeBlkWord i v hf ht | compress hf ht
    | reserved hf ht => rw [hfl.busy] at hf; cases hf
  | busError r e hr hf hq hd ht =>
    have ha : ¬EngineAlone s := fun ha => by
      obtain ⟨i, hd', -⟩ := held_of_engineAlone ha hq
      rw [hd] at hd'; cases hd'
    subst ht
    exact .host ⟨rfl, rfl, rfl, rfl⟩ (hfl.next h rfl rfl rfl (List.Subset.refl _)) rfl
      (hostSteps_answer (s := s.raise .bus) hq 0#32 true) ha
  | decode hr hs ht =>
    cases ht
    refine .micro ⟨rfl, rfl, rfl, rfl⟩ (hfl.next h rfl rfl rfl (List.Subset.refl _)) rfl rfl ?_
    simp [State.opsBeforeCombine, State.afterDecode_eq, hs]
  | stepl hr hs hj ht =>
    obtain ⟨-, rfl⟩ := microStep_next ht
    exact .micro ⟨rfl, rfl, rfl, rfl⟩ (hfl.next h rfl rfl rfl (List.Subset.refl _)) rfl rfl
      (opsBeforeCombine_stepLeft hp hs hj)
  | stepr hr hs hj ht =>
    obtain ⟨-, rfl⟩ := microStep_next ht
    exact .micro ⟨rfl, rfl, rfl, rfl⟩ (hfl.next h rfl rfl rfl (List.Subset.refl _)) rfl rfl
      (opsBeforeCombine_stepRight hp hs hj)
  | leave hr hs hj hk ht =>
    obtain ⟨-, hrounds, -⟩ := hp
    obtain ⟨-, -, hbelow⟩ := hrounds hs
    omega
  | combine hr hs ht => cases ht; exact .completes (completion_combine hfl.inv hs)
  | outside hr ho => exact flightStep_outside hfl h ho
  | idle hr hs ho ht => exact absurd hs (hp.1.mp hfl.busy)

/-- The COMPRESS in flight completes within n steps. -/
def CompletesWithin (s : State) (n : Nat) : Prop := ∃ k t, k ≤ n ∧ core.run k s = .next t ∧ Completion s t

/-- What a completion is to be is read from the inputs alone. -/
theorem Completion.of_sameInputs {s t u : State} (hk : SameInputs s t) (hc : Completion t u) : Completion s u := by
  obtain ⟨hbytes, -, -⟩ := hk.bytes_and_words
  obtain ⟨hb, hd, hh⟩ := hc
  exact ⟨hb, hd, by rw [hh, hk.h, funext hbytes]⟩

/-- A COMPRESS completes within any bound on a measure that every step before the completion makes smaller. -/
theorem completesWithin_of_measure {P : State → Prop} {μ : State → Nat}
    (hstep : ∀ s, P s → ∃ t, step s = .next t ∧ (Completion s t ∨ (SameInputs s t ∧ P t ∧ μ t < μ s))) :
    ∀ (n : Nat) {s : State}, P s → μ s < n → CompletesWithin s n := by
  intro n
  induction n with
  | zero => intro s hs hn; exact absurd hn (Nat.not_lt_zero _)
  | succ n ih =>
    intro s hs hn
    obtain ⟨t, ht, hc | ⟨hk, hpt, hless⟩⟩ := hstep s hs
    · exact ⟨1, t, Nat.succ_le_succ n.zero_le, core_run_next ht, hc⟩
    · obtain ⟨k, u, hkn, hrun, hu⟩ := ih hpt (by omega)
      exact ⟨k + 1, u, Nat.succ_le_succ hkn, (core_run_next ht).trans hrun, hu.of_sameInputs hk⟩

/-- R143, R237: whatever accesses the host issues, the COMPRESS completes with the work of the sequencer and the host. -/
theorem completesWithin_of_inFlight {s : State} {n : Nat} (hfl : InFlight s)
    (hn : s.opsBeforeCombine + s.hostSteps < n) : CompletesWithin s n := by
  refine completesWithin_of_measure (μ := fun s => s.opsBeforeCombine + s.hostSteps) (fun s hfl => ?_) n hfl hn
  obtain ⟨t, ht⟩ := step_total hfl.fsel
  refine ⟨t, ht, ?_⟩
  cases flightStep_of_step hfl ht with
  | completes hc => exact .inl hc
  | micro hk hfl' hq hh hops =>
    have hsame : t.hostSteps = s.hostSteps := by rw [State.hostSteps, hq, hh, State.hostSteps]
    exact .inr ⟨hk, hfl', by omega⟩
  | host hk hfl' hops hsteps ha => exact .inr ⟨hk, hfl', by omega⟩

/-- R143, R208: when nothing but the sequencer can move, that stays so, and the COMPRESS completes with its work. -/
theorem completesWithin_of_engineAlone {s : State} {n : Nat} (hfl : InFlight s) (ha : EngineAlone s)
    (hn : s.opsBeforeCombine < n) : CompletesWithin s n := by
  refine completesWithin_of_measure (P := fun s => InFlight s ∧ EngineAlone s) (fun s ⟨hfl, ha⟩ => ?_) n ⟨hfl, ha⟩ hn
  obtain ⟨t, ht⟩ := step_total hfl.fsel
  refine ⟨t, ht, ?_⟩
  cases flightStep_of_step hfl ht with
  | completes hc => exact .inl hc
  | micro hk hfl' hq hh hops =>
    obtain ⟨-, -, ho, hheld⟩ := ha
    refine .inr ⟨hk, ⟨hfl', hfl'.rst, hfl'.fsel, outsideMove_none_of_same hh hq ho, ?_⟩, hops⟩
    simpa only [hq, hfl.busy, hfl'.busy] using hheld
  | host hk hfl' hops hsteps hna => exact absurd ha hna

theorem opsBeforeCombine_le (s : State) : s.opsBeforeCombine ≤ 161 := by
  unfold State.opsBeforeCombine; split <;> omega

theorem hostSteps_le (s : State) : s.hostSteps ≤ 2 * s.host.length + 1 :=
  Nat.add_le_add_left Option.length_toList_le _

/-- Settles O48: the sequencer has at most 161 micro-operations to issue before COMBINE, and the host two steps to take for
each access still to come and one for a pending one. -/
theorem everyCompressInFlightCompletes : Obligations.EveryCompressInFlightCompletes := by
  intro s hi hr hf hb hh
  have hfl : InFlight s := ⟨hi, hr, hf, hb, hh⟩
  have hops := opsBeforeCombine_le s
  have hsteps := hostSteps_le s
  exact ⟨completesWithin_of_inFlight hfl (by omega), fun ha => completesWithin_of_engineAlone hfl ha (by omega)⟩

/-! ### The commands (R140, R141, R144) -/

/-- Settles O17: a performed NOP is its acknowledgement alone. -/
theorem nopChangesNothing : Obligations.NopChangesNothing := fun s =>
  ⟨by decide, fun hb => ⟨s.ack, access_free hb _, ⟨rfl, rfl⟩, answer_sameEngine s _ _, ⟨rfl, rfl⟩⟩, exec_held rfl⟩

/-- R141: the state is incomplete exactly when some HVALID bit is 0. -/
theorem State.stateOk_eq_false_iff (s : State) : s.stateOk = false ↔ ∃ i, s.hasH i = false := by
  rw [← Bool.not_eq_true, s.stateOk_iff]; simp

/-- R141: the block is incomplete exactly when some BVALID bit is 0. -/
theorem State.blkFull_eq_false_iff (s : State) : s.blkFull = false ↔ ∃ n, n < 64 ∧ s.hasByte n = false := by
  rw [← Bool.not_eq_true, s.blkFull_iff]; simp

/-- Settles O18: both conditions of the check are the completeness of the inputs, word by word and byte by byte. -/
theorem compressChecksInputsAndStarts : Obligations.CompressChecksInputsAndStarts := by
  intro s
  refine ⟨by decide, fun hb => ?_, exec_held rfl⟩
  refine ⟨s.issueCompress.ack, access_free hb _, ⟨rfl, rfl⟩, rfl, ?_, ?_, by simp, by simp, ?_, ?_, ⟨fun _ => rfl, rfl⟩,
    ⟨fun _ => rfl, rfl⟩, ⟨rfl, rfl, rfl, rfl, rfl⟩, ⟨rfl, rfl, rfl, rfl, rfl⟩, ⟨rfl, rfl⟩⟩
  · rw [← s.stateOk_eq_false_iff]
    simp
  · rw [← s.blkFull_eq_false_iff]
    simp
  · rw [← s.stateOk_iff, ← s.blkFull_iff]
    rintro ⟨hst, hbl⟩
    simp [State.inputsOk, hst, hbl]
  · rw [← s.stateOk_eq_false_iff, ← s.blkFull_eq_false_iff]
    intro h
    have hrefused : s.inputsOk = false := by rcases h with h | h <;> simp [State.inputsOk, h]
    simp [hrefused, hb]

/-! ### What the transform reads (R142, R160) -/

/-- R160: a schedule word of the block reads four of its 64 bytes. -/
theorem scheduleWord_congr {b b' : Nat → Byte} (h : ∀ n, n < 64 → b n = b' n) {i : Nat} (hi : i < 16) :
    scheduleWord b i = scheduleWord b' i := by
  rw [scheduleWord, h _ (by omega), h _ (by omega), h _ (by omega), h _ (by omega), scheduleWord]

/-- R160: the schedule reads the 64 bytes of the block alone. -/
theorem schedule_congr {b b' : Nat → Byte} (h : ∀ n, n < 64 → b n = b' n) : schedule b = schedule b' := by
  simp (disch := decide) only [schedule, scheduleWord_congr h]

/-- Settles O31: the transform reads the block through its schedule. -/
theorem compressDependsOnBlockBytes : Obligations.CompressDependsOnBlockBytes := by
  intro hin b b' h
  rw [compress_eq, compress_eq, schedule_congr h]

end Sys2Proof.Machine
end

section
/-! SUPPORT. The message schedule (42_schedule.md): the micro-operation DECODE loads it and the two quintuples (R160, R201),
and every group of 16 steps reads each of its words once (R161, R177). -/

namespace Sys2Proof.Machine

/-! ### DECODE (R160, R201) -/

/-- R160: word i of the schedule is four bytes of the block. -/
theorem schedule_get (b : Nat → Byte) (i : Fin 16) : (schedule b).get i = scheduleWord b i.val := by
  fin_cases i <;> rfl

/-- Settles O22: in every phase, DECODE loads the pipelines and then moves the sequencer. -/
theorem decodeLoadsPipelines : Obligations.DecodeLoadsPipelines := fun s =>
  ⟨decodeUseq_decode, s.loadPipelines.afterDecode, rfl, schedule_get s.blkByte,
    fun i => ⟨s.h.get_toQuint i, s.h.get_toQuint i⟩, rfl, rfl, fun hs => if_pos hs, rfl, rfl, ⟨fun _ => rfl, rfl⟩,
    ⟨fun _ => rfl, rfl⟩, s.loadPipelines_errBit, ⟨rfl, rfl, rfl, rfl, rfl⟩, ⟨rfl, rfl⟩, rfl⟩

/-! ### The words a group of steps reads (R161, R177) -/

/-- R172: rho, the group-1 row of RL, takes no value twice. -/
theorem rho_injective : Function.Injective fun k : Fin 16 => schedIndex .left (16 + k.val) := by decide

/-- R161, R177: no two steps of a group read the same word. The rows of group 0 show it, and each later row is the one
before it under rho. -/
theorem schedIndex_injective_on_group (side : Side) {g : Nat} (hg : g < 5) :
    Function.Injective fun k : Fin 16 => schedIndex side (16 * g + k.val) := by
  induction g with
  | zero => cases side <;> decide
  | succ g ih =>
    have hrho := schedIndex_rho side ⟨g, by omega⟩
    simp only [hrho]
    exact rho_injective.comp (ih (by omega))

/-- Settles O29: a group's 16 steps read 16 different words, and so each of the 16. -/
theorem groupReadsEveryWordOnce : Obligations.GroupReadsEveryWordOnce := fun side g =>
  (Finite.injective_iff_bijective.mp (schedIndex_injective_on_group side g.isLt)).existsUnique

end Sys2Proof.Machine
end

section
/-! SUPPORT. The constant tables (43_constant_tables.md): the rows of the two schedule indices come from group 0 under rho
(R172, R173), step by step. -/

namespace Sys2Proof.Machine

/-- R172: each of the 80 steps of the left pipeline has its entry of RL. -/
theorem rlTable_getElem? {j : Nat} (hj : j < 80) : rlTable[j]? = some (schedIndex .left j) := by
  have hlt : j < rlTable.length := hj
  simp [schedIndex, List.getD, List.getElem?_eq_getElem hlt]

/-- R173: each of the 80 steps of the right pipeline has its entry of RR. -/
theorem rrTable_getElem? {j : Nat} (hj : j < 80) : rrTable[j]? = some (schedIndex .right j) := by
  have hlt : j < rrTable.length := hj
  simp [schedIndex, List.getD, List.getElem?_eq_getElem hlt]

/-- R172: rho, the group-1 row of RL, as the spec lists it. -/
theorem rho_getElem? : ∀ k : Fin 16,
    [7, 4, 13, 1, 10, 6, 15, 3, 12, 0, 9, 5, 2, 14, 11, 8][k.val]? = some (schedIndex .left (16 + k.val)).val := by decide

/-- R172, R173: the word a step reads is rho of the word read 16 steps before. -/
theorem schedIndex_add_sixteen (side : Side) {i : Nat} (hi : i < 64) :
    schedIndex side (16 + i) = schedIndex .left (16 + (schedIndex side i).val) := by
  have hrho := schedIndex_rho side ⟨i / 16, by omega⟩ ⟨i % 16, by omega⟩
  have hnext : 16 * (i / 16 + 1) + i % 16 = 16 + i := by omega
  simpa only [hnext, Nat.div_add_mod] using hrho

/-- R172, R173: group 0 of the left is the identity, and group 0 of the right is pi. -/
theorem schedIndex_group_zero : ∀ i, i < 16 →
    (schedIndex .left i).val = i ∧ (schedIndex .right i).val = (9 * i + 5) % 16 := by decide

/-- Settles O56: the tables of constants, functions and rotations are the spec's as listed, and the later rows of RL and RR
follow from group 0 under rho. -/
theorem constantTablesAreTheSpecs : Obligations.ConstantTablesAreTheSpecs := by
  refine ⟨rfl, rfl, rfl, rfl, rfl, rfl, fun i hi => ?_, fun i hi => ?_, rfl, rfl⟩
  · obtain ⟨hleft, hright⟩ := schedIndex_group_zero i hi
    simp [rlTable_getElem? (show i < 80 by omega), rrTable_getElem? (show i < 80 by omega), hleft, hright]
  · have hnow : i < 80 := by omega
    have hlater : 16 + i < 80 := by omega
    simp only [rlTable_getElem? hnow, rlTable_getElem? hlater, rrTable_getElem? hnow, rrTable_getElem? hlater,
      Option.map_some, Option.bind_some, rho_getElem?, schedIndex_add_sixteen _ hi, and_self]

end Sys2Proof.Machine
end

section
/-! SUPPORT. The round functions (44_round_functions.md): what one bit of each is (R195), and the answer of the
round-function unit to a selector (log entry 12). -/

namespace Sys2Proof.Machine

/-! ### One bit of the round functions (R195) -/

/-- R190 to R194 on one bit: what a selector's function makes of a bit of b, c and d. -/
def roundBit : FSel → Bool → Bool → Bool → Bool
  | .f0, b, c, d => b ^^ c ^^ d
  | .f1, b, c, d => (b && c) || (!b && d)
  | .f2, b, c, d => (b || !c) ^^ d
  | .f3, b, c, d => (b && d) || (c && !d)
  | .f4, b, c, d => b ^^ (c || !d)

/-- R195: no carry between bits. The bound is what `NOT` needs, which is within 32 bits (R192). -/
theorem roundFun_getLsbD (f : FSel) (b c d : Word) {k : Nat} (hk : k < 32) :
    (roundFun f b c d).getLsbD k = roundBit f (b.getLsbD k) (c.getLsbD k) (d.getLsbD k) := by
  cases f with
  | f0 => simp [roundFun, fun0, roundBit]
  | f1 => simp [roundFun, fun1, roundBit, hk]
  | f2 => simp [roundFun, fun2, roundBit, hk]
  | f3 => simp [roundFun, fun3, roundBit, hk]
  | f4 => simp [roundFun, fun4, roundBit, hk]

/-- R195: a row of the truth table is the five functions of its three bits. -/
theorem truthRow_eq (b c d : Bool) :
    truthRow b c d = [roundBit .f0 b c d, roundBit .f1 b c d, roundBit .f2 b c d, roundBit .f3 b c d,
      roundBit .f4 b c d] := by
  revert b c d; decide

/-- Settles O20: bit k of each function's word is the function of bit k of the operands, and the table lists that function's
eight values. -/
theorem roundFunctionsMatchTruthTable : Obligations.RoundFunctionsMatchTruthTable := by
  intro b c d k hk
  refine ⟨?_, rfl, rfl, rfl, rfl, rfl⟩
  simp only [truthRow_eq, ← roundFun_getLsbD _ b c d hk, roundFun]

/-! ### The round-function unit (R190 to R194, log entry 12) -/

/-- Settles O21: each of the five instructions is the unit's evaluation of its function's word, and an evaluation sets the
output and takes the selector. -/
theorem roundFunctionUnitAnswers : Obligations.RoundFunctionUnitAnswers := by
  intro b c d s i w h
  have hexec : exec i s = .next (s.evalRound w) := by
    rcases h with ⟨rfl, rfl⟩ | ⟨rfl, rfl⟩ | ⟨rfl, rfl⟩ | ⟨rfl, rfl⟩ | ⟨rfl, rfl⟩ <;> rfl
  exact ⟨s.evalRound w, hexec, s.evalRound_fout w, s.evalRound_fsel w, ⟨fun _ => rfl, rfl⟩, ⟨s.evalRound_blkByte w, rfl⟩,
    s.evalRound_errBit w, ⟨rfl, rfl, rfl⟩, ⟨rfl, rfl, rfl, rfl, rfl⟩, ⟨rfl, rfl⟩, ⟨rfl, rfl⟩, rfl, rfl, rfl⟩

end Sys2Proof.Machine
end

section
/-! SUPPORT. The two pipelines (45_pipelines.md R200 to R208): what one step of each computes and leaves (R202, R203), that
the two do not disturb each other (R206), what a micro-operation does to the phase (R207), and the whole micro-sequence,
which is the atomic Complete() (R208). -/

namespace Sys2Proof.Machine

/-! ### One step of a pipeline (R202, R203) -/

/-- What a pipeline step leaves as it was: all but the pipelines, the phase and the position in the free schedule. -/
abbrev SameOutsidePipelines (s t : State) : Prop :=
  t.busy = s.busy ∧ t.done = s.done ∧ SameH s t ∧ SameBlock s t ∧ SameErrors s t ∧ SameWorld s t ∧ SamePorts s t
    ∧ t.draws = s.draws

theorem SameOutsidePipelines.afterStep {s t : State} (h : SameOutsidePipelines s t) :
    SameOutsidePipelines s t.afterStep := by
  obtain ⟨hbusy, hdone, hH, hblock, herr, hworld, hports, hdraws⟩ := h
  exact ⟨hbusy, hdone, hH, hblock, fun c => (t.enter_errBit _ c).trans (herr c), hworld, hports, hdraws⟩

theorem stepLeft_sameOutsidePipelines (s : State) (j : Nat) : SameOutsidePipelines s (s.stepLeft j) :=
  ⟨rfl, rfl, ⟨fun _ => rfl, rfl⟩, ⟨fun _ => rfl, rfl⟩, s.stepLeft_errBit j, ⟨rfl, rfl, rfl, rfl, rfl⟩, ⟨rfl, rfl⟩, rfl⟩

theorem stepRight_sameOutsidePipelines (s : State) (j : Nat) : SameOutsidePipelines s (s.stepRight j) :=
  ⟨rfl, rfl, ⟨fun _ => rfl, rfl⟩, ⟨fun _ => rfl, rfl⟩, s.stepRight_errBit j, ⟨rfl, rfl, rfl, rfl, rfl⟩, ⟨rfl, rfl⟩, rfl⟩

/-- R202: STEPL of a step number that is not reserved is the left step and then the sequencer's move. -/
theorem exec_stepl {j : BitVec 7} (hj : j.toNat < 80) (s : State) :
    exec (.stepl j) s = .next (s.stepLeft j.toNat).afterStep := microStep_inRange hj _

/-- R203: STEPR of a step number that is not reserved is the right step and then the sequencer's move. -/
theorem exec_stepr {j : BitVec 7} (hj : j.toNat < 80) (s : State) :
    exec (.stepr j) s = .next (s.stepRight j.toNat).afterStep := microStep_inRange hj _

/-- R207: the phase after a step in ROUNDS, by the counters as the step leaves them. -/
theorem afterStep_seq_of_rounds {s : State} (hs : s.seq = .rounds) :
    s.afterStep.seq = if 80 ≤ s.afterStep.jL.toNat ∧ 80 ≤ s.afterStep.jR.toNat then .combine else .rounds := by
  simp only [State.afterStep_seq, hs, true_and]
  rfl

/-- R170 to R177: a lookup within a table meets an entry and not the default. -/
theorem getElem?_eq_some_getD {α : Type} {l : List α} {i : Nat} (d : α) (hi : i < l.length) :
    l[i]? = some (l.getD i d) := by
  rw [List.getD_eq_getElem l d hi, List.getElem?_eq_getElem hi]

/-- Settles O23: the step's entries of the four left tables are in range, and the step is the pipeline's with them. -/
theorem leftStepComputesQuintuple : Obligations.LeftStepComputesQuintuple := by
  intro j s hj
  have hg : j.toNat / 16 < 5 := by omega
  exact ⟨decodeUseq_stepl hj, _, schedIndex .left j.toNat, addConst .left j.toNat, rotAmount .left j.toNat,
    roundSel .left j.toNat, exec_stepl hj s, rlTable_getElem? hj, getElem?_eq_some_getD _ hg, getElem?_eq_some_getD _ hj,
    getElem?_eq_some_getD _ hg, rfl, rfl, rfl, rfl, rfl, fun hs => afterStep_seq_of_rounds (s := s.stepLeft j.toNat) hs,
    (stepLeft_sameOutsidePipelines s j.toNat).afterStep⟩

/-- Settles O24: as O23, with the four right tables. -/
theorem rightStepComputesQuintuple : Obligations.RightStepComputesQuintuple := by
  intro j s hj
  have hg : j.toNat / 16 < 5 := by omega
  exact ⟨decodeUseq_stepr hj, _, schedIndex .right j.toNat, addConst .right j.toNat, rotAmount .right j.toNat,
    roundSel .right j.toNat, exec_stepr hj s, rrTable_getElem? hj, getElem?_eq_some_getD _ hg, getElem?_eq_some_getD _ hj,
    getElem?_eq_some_getD _ hg, rfl, rfl, rfl, rfl, rfl, fun hs => afterStep_seq_of_rounds (s := s.stepRight j.toNat) hs,
    (stepRight_sameOutsidePipelines s j.toNat).afterStep⟩

/-! ### The two pipelines do not disturb each other (R206) -/

/-- R207: while a pipeline has steps to do, the sequencer stays in its phase. -/
theorem afterStep_of_not_roundsOver {s : State} (h : ¬(80 ≤ s.jL.toNat ∧ 80 ≤ s.jR.toNat)) :
    s.afterStep = s.enter s.seq := by
  rw [State.afterStep_eq, if_neg fun hover => h (s.roundsOver_iff.mp hover.2)]

/-- Settles O30: the first of the two steps ends no rounds, since the other pipeline has its own still to do; so both
orders make the sequencer's one move on the same state. -/
theorem leftAndRightStepsCommute : Obligations.LeftAndRightStepsCommute := by
  intro s hl hr
  have hleft : (s.stepLeft s.jL.toNat).afterStep = (s.stepLeft s.jL.toNat).enter s.seq :=
    afterStep_of_not_roundsOver fun h => Nat.not_le_of_lt hr h.2
  have hright : (s.stepRight s.jR.toNat).afterStep = (s.stepRight s.jR.toNat).enter s.seq :=
    afterStep_of_not_roundsOver fun h => Nat.not_le_of_lt hl h.1
  refine ⟨_, _, _, exec_stepl hl s, exec_stepr hr _, exec_stepr hr s, ?_⟩
  rw [exec_stepl hl, hleft, hright]
  rfl

/-! ### A micro-operation out of its phase (R207, log entry 8) -/

theorem afterDecode_seq_of_ne {s : State} (hs : s.seq ≠ .decode) : s.afterDecode.seq = s.seq := if_neg hs

theorem afterStep_seq_of_ne {s : State} (hs : s.seq ≠ .rounds) : s.afterStep.seq = s.seq :=
  if_neg fun h => hs h.1

/-- Settles O25: the sequencer's moves after DECODE and after a step are from their own phases alone. -/
theorem outOfPhaseMicroOpLeavesPhase : Obligations.OutOfPhaseMicroOpLeavesPhase := by
  intro j s
  refine ⟨fun hs => ⟨_, rfl, afterDecode_seq_of_ne (s := s.loadPipelines) hs⟩, fun hs hj => ?_⟩
  exact ⟨_, _, exec_stepl hj s, afterStep_seq_of_ne (s := s.stepLeft j.toNat) hs, exec_stepr hj s,
    afterStep_seq_of_ne (s := s.stepRight j.toNat) hs⟩

/-! ### The whole micro-sequence (R208) -/

/-- What a COMPRESS leaves as it was: the error bits, the block's bytes (log entry 22), the outside world and the ports. -/
abbrev SameOutsideCompress (s t : State) : Prop :=
  SameErrors s t ∧ (∀ n, t.blkByte n = s.blkByte n) ∧ SameWorld s t ∧ SamePorts s t ∧ t.draws = s.draws

theorem roundsAt_sameOutsideCompress (s : State) (l r p : Nat) : SameOutsideCompress s (s.roundsAt l r p) :=
  ⟨fun c => by cases c <;> rfl, fun _ => rfl, ⟨rfl, rfl, rfl, rfl, rfl⟩, ⟨rfl, rfl⟩, rfl⟩

/-- R143, R221: what COMBINE does to the state, whatever the new state words are. -/
theorem SameOutsideCompress.completed {s t : State} (h : SameOutsideCompress s t) (w : HFile) :
    SameOutsideCompress s ((t.completeWith w).enter .idle) := by
  obtain ⟨herr, hblock, hworld, hports, hdraws⟩ := h
  exact ⟨fun c => by simp [herr c], hblock, hworld, hports, hdraws⟩

theorem completedAt_sameOutsideCompress (s : State) (p : Nat) : SameOutsideCompress s (s.completedAt p) :=
  (roundsAt_sameOutsideCompress s 80 80 p).completed _

theorem State.completedAt_seq (s : State) (p : Nat) : (s.completedAt p).seq = .idle := by simp [State.completedAt]

/-- Settles O46: the 162 steps run along the states of the rounds, and the completion is the atomic one on their last. -/
theorem microSequenceComputesCompress : Obligations.MicroSequenceComputesCompress := by
  intro s ha _ hs
  obtain ⟨p, hrun⟩ : ∃ p, core.run 162 s = .next (s.completedAt p) := ⟨_, run_compress ha hs⟩
  exact ⟨_, hrun, s.completedAt_h p, s.completedAt_hasH p, s.completedAt_hasByte p, s.completedAt_busy p,
    s.completedAt_done p, s.completedAt_seq p, completedAt_sameOutsideCompress s p⟩

end Sys2Proof.Machine
end

section
/-! SUPPORT. The combiner (46_combiner.md R220, R221): COMBINE in any phase is the completion with `Combine(H, QL, QR)`, and
the sequencer in IDLE. -/

namespace Sys2Proof.Machine

/-- R22, R143: a completion leaves each state word valid. -/
@[simp] theorem State.completeWith_hasH (s : State) (w : HFile) (i : Fin 5) : (s.completeWith w).hasH i = true :=
  (State.stateOk_iff _).mp (s.completeWith_stateOk w) i

/-- R25, R143: a completion leaves each block byte invalid. -/
@[simp] theorem State.completeWith_hasByte (s : State) (w : HFile) (n : Nat) : (s.completeWith w).hasByte n = false :=
  BitVec.getLsbD_zero

theorem SameOutsideCompress.refl (s : State) : SameOutsideCompress s s :=
  ⟨fun _ => rfl, fun _ => rfl, ⟨rfl, rfl, rfl, rfl, rfl⟩, ⟨rfl, rfl⟩, rfl⟩

/-- R221: COMBINE completes with the new state computed from the incoming one. -/
theorem exec_combine (s : State) :
    exec .combine s = .next ((s.completeWith (combine s.h s.left s.right)).enter .idle) := rfl

/-- Settles O28: the new words are those of Combine, and the flags and the frame are the completion's. -/
theorem combineWritesStateAndCompletes : Obligations.CombineWritesStateAndCompletes := by
  intro s
  obtain ⟨herr, -, hworld, hports, hdraws⟩ := (SameOutsideCompress.refl s).completed (combine s.h s.left s.right)
  exact ⟨decodeUseq_combine, _, exec_combine s, get_combine s.h s.left s.right, fun i => by simp, fun n => by simp,
    rfl, rfl, rfl, herr, hworld, hports, hdraws⟩

end Sys2Proof.Machine
end

section
/-! SUPPORT. Errors (60_exceptions.md R230 to R237): the cause codes, the bus error, the sticky bits, and that no step of the
engine faults. -/

namespace Sys2Proof.Machine

/-! ### The cause codes (R230) -/

/-- Settles O15: the STATUS bits of the four causes. -/
theorem causeCodeIsStatusBit : Obligations.CauseCodeIsStatusBit := by
  intro s c
  cases c with
  | block => exact s.statusWord_errBlock
  | state => exact s.statusWord_errState
  | cmd => exact s.statusWord_errCmd
  | bus => exact s.statusWord_errBus

/-! ### The bus error (R233, R234) -/

/-- R233: the four cases of a bus error. -/
def BusErrorCase (r : BusReq) : Prop :=
  r.sizeCode.toNat = 1 ∨ r.sizeCode.toNat = 3
    ∨ (r.sizeCode.toNat = 2 ∧ ((0x14 ≤ r.offset.toNat ∧ r.offset.toNat ≤ 0x3F)
        ∨ (0x80 ≤ r.offset.toNat ∧ r.offset.toNat ≤ 0xEF) ∨ 0xF8 ≤ r.offset.toNat))
    ∨ (r.sizeCode.toNat = 0 ∧ ¬(0x40 ≤ r.offset.toNat ∧ r.offset.toNat ≤ 0x7F))
    ∨ (r.sizeCode.toNat = 2 ∧ r.offset.toNat % 4 ≠ 0)

/-- R53, R233: no target has the size and the offset of one of the four cases. -/
theorem target_of_busErrorCase {r : BusReq} (h : BusErrorCase r) : r.target = none := by
  by_contra hsome
  obtain ⟨tgt, htgt⟩ := Option.ne_none_iff_exists'.mp hsome
  obtain ⟨hsz, hoff⟩ := (decodeTarget_eq_some_iff _ _ tgt).mp htgt
  unfold BusErrorCase at h
  rw [hsz, hoff] at h
  cases tgt with
  | h i => have := i.isLt; simp only [targetSizeCode, targetOffset] at h; omega
  | blkByte n => have := n.isLt; simp only [targetSizeCode, targetOffset] at h; omega
  | blkWord i => have := i.isLt; simp only [targetSizeCode, targetOffset] at h; omega
  | ctrl => simp only [targetSizeCode, targetOffset] at h; omega
  | status => simp only [targetSizeCode, targetOffset] at h; omega

/-- R82, R233: a transaction with no target does not decode. -/
theorem decodeBus_of_no_target {r : BusReq} (h : r.target = none) : decodeBus r = .error .busError := by
  rw [decodeBus, h]

/-- Settles O35: a transaction of the four cases has no target, and a bus error raises ERR_BUS and is answered. -/
theorem busErrorIsAnsweredAtOnce : Obligations.BusErrorIsAnsweredAtOnce := by
  intro s r hr hf hq hcase
  refine ⟨s.busError, step_busError hr hf hq (decodeBus_of_no_target (target_of_busErrorCase hcase)), by simp,
    fun d hd => ?_, ⟨rfl, rfl⟩, ⟨fun _ => rfl, rfl⟩, ⟨fun _ => rfl, rfl⟩, ⟨rfl, rfl, rfl⟩, ⟨rfl, rfl, rfl, rfl, rfl⟩,
    ⟨rfl, rfl, rfl, rfl, rfl⟩, ⟨rfl, rfl⟩⟩
  simp [hd.symm]

/-! ### The sticky bits (R236) -/

theorem readH_errBit (s : State) (i : Fin 5) (c : Cause) : (s.readH i).errBit c = s.errBit c := by
  rcases s.readH_cases i with ⟨-, h⟩ | ⟨-, h⟩ <;> rw [h] <;> cases c <;> rfl

theorem accessTo_errBit {s t : State} (ha : AccessTo s t) {c : Cause} (hc : s.errBit c = true) : t.errBit c = true := by
  cases ha with
  | readH i hb ht => rw [ht, readH_errBit]; exact hc
  | answered w ht => subst ht; simp [hc]
  | writeH i v hb ht => subst ht; simp [hc]
  | writeByte n b hb ht => subst ht; simp [hc]
  | writeBlkWord i v hb ht => subst ht; simp [State.writeBlkWord, hc]
  | compress hb ht => subst ht; simp [hc]
  | reserved hb ht => subst ht; simp [hc]

theorem outsideMove_errBit {s t : State} (h : outsideMove s = some t) (c : Cause) : t.errBit c = s.errBit c := by
  rcases outsideMove_some h with ⟨rest, -, rfl⟩ | ⟨r, rest, -, -, rfl⟩ <;> cases c <;> rfl

/-- Settles O42: an access and a bus error only raise errors, and every other step but the reset event leaves them. -/
theorem errorBitsAreSticky : Obligations.ErrorBitsAreSticky := by
  intro s t c hr h hc
  cases step_cases h with
  | reset hr' ht => rw [hr] at hr'; cases hr'
  | select f i _ hf hd ht =>
    obtain ⟨w, hw⟩ := exec_select hd s
    rw [hw] at ht; cases ht
    simp [hc]
  | access r i _ hf hq hd hb ht => exact accessTo_errBit (exec_access hd hb ht) hc
  | busError r e _ hf hq hd ht => subst ht; simp [hc]
  | decode _ hs ht => cases ht; simp [State.afterDecode_eq, hc]
  | stepl _ hs hj ht => obtain ⟨-, rfl⟩ := microStep_next ht; simp [State.afterStep_eq, hc]
  | stepr _ hs hj ht => obtain ⟨-, rfl⟩ := microStep_next ht; simp [State.afterStep_eq, hc]
  | leave _ hs hj hk ht => subst ht; simp [State.afterStep_eq, hc]
  | combine _ hs ht => cases ht; simp [hc]
  | outside _ ho => rw [outsideMove_errBit ho]; exact hc
  | idle _ hs ho ht => subst ht; exact hc

/-! ### No step faults (R237) -/

/-- R85, R89: a selector that names no function is 101, 110 or 111. -/
theorem five_le_of_fselOf_none : ∀ {fs : BitVec 3}, fselOf fs = none → 5 ≤ fs.toNat := by decide

/-- R89, U8: a selector that does not decode is refused (log entries 12 and 14). -/
theorem step_select_reserved {s : State} {f : FselReq} {e : Reject} (hr : s.rst = false) (hf : s.fsel = some f)
    (hd : decodeFsel f = .error e) : step s = .refused .reservedFsel := by
  simp [step, nextTurn, fselTurn, hr, hf, hd]

/-- Settles O38: with no selector pending every step answers a next state; with one, the reset event and the round-function
unit do, unless the selector is reserved. -/
theorem onlyAReservedSelectorIsRefused : Obligations.OnlyAReservedSelectorIsRefused := by
  intro s
  cases hf : s.fsel with
  | none => exact .inl (step_total hf)
  | some f =>
    cases hr : s.rst with
    | true => exact .inl ⟨_, step_reset hr⟩
    | false =>
      cases hd : decodeFsel f with
      | ok i =>
        obtain ⟨w, hw⟩ := exec_select hd s
        exact .inl ⟨_, (step_select hr hf hd).trans hw⟩
      | error e =>
        exact .inr ⟨step_select_reserved hr hf hd, f, rfl, five_le_of_fselOf_none (decodeFsel_error hd).1⟩

end Sys2Proof.Machine
end

section
/-! SUPPORT. Reset and hazards (70_reset_and_hazards.md R260 to R273): the reset event, a block used once, and that the
control of the engine does not depend on data. -/

namespace Sys2Proof.Machine

/-! ### Reset (R260, R261) -/

/-- R110, R260: during reset the engine is ready for no transaction. -/
theorem State.reqReady_reset {s : State} (hr : s.rst = true) (holdable : Bool) : s.reqReady holdable = false := by
  simp [reqReady, hr]

/-- Settles O36: the reset event puts the engine in the state of R34. -/
theorem resetEventClearsEngine : Obligations.ResetEventClearsEngine := by
  intro s hr
  obtain ⟨hvalid, hbytes, herr, hbusy, hdone, hstatus, hseq, hreq, hrsp, -⟩ := resetStateIsAsTheSpecSays
  refine ⟨State.reqReady_reset hr, s.resetEvent, step_reset hr, rfl, hvalid, hbytes, hbusy, hdone, fun c => ?_, hstatus,
    hseq, hreq, hrsp, rfl, rfl⟩
  cases c <;> rfl

/-! ### A block is used once (R143, R270) -/

/-- R141: with a byte of the block missing the inputs are not complete. -/
theorem State.inputsOk_of_not_blkFull {s : State} (h : s.blkFull = false) : s.inputsOk = false := by
  simp [inputsOk, h]

/-- R140, R141: a COMPRESS issued with a byte of the block missing is refused with ERR_BLOCK. -/
theorem exec_compress_refused {s : State} (hb : s.busy = false) (hfull : s.blkFull = false) :
    ∃ t, exec .compress s = .next t ∧ t.errBlock = true ∧ t.busy = false ∧ t.done = false ∧ t.seq = s.seq
      ∧ SameH s t := by
  have hrefused := State.inputsOk_of_not_blkFull hfull
  exact ⟨s.issueCompress.ack, access_free hb _, by simp [hfull], by simp [hb, hrefused], rfl,
    by simp [hrefused], fun _ => rfl, rfl⟩

/-- Settles O51: a completion leaves BUSY 0 and the block without a valid byte. -/
theorem completedBlockCannotBeReused : Obligations.CompletedBlockCannotBeReused := by
  intro s
  obtain ⟨u, hu, herr, hbusy, hdone, hseq, hH⟩ :=
    exec_compress_refused (s := (s.completeWith (combine s.h s.left s.right)).enter .idle) rfl rfl
  exact ⟨_, u, exec_combine s, hu, herr, hbusy, hdone, hseq, hH⟩

/-! ### The control does not depend on data (R273) -/

/-- The state with other data: the words of H, the block buffer, the schedule and the quintuples. -/
def State.withData (s : State) (h : HFile) (m : List Host.Cell) (x : Vector Word 16) (l r : Quint) : State :=
  { s with h := h, blk := m, x := x, left := l, right := r }

/-- Two states that differ in their data at most. -/
def SameButData (s t : State) : Prop := ∃ h m x l r, t = s.withData h m x l r

/-- R206, R207: the sequencer's next move is a matter of its phase, the counters and the free schedule. -/
theorem engineMove_withData (s : State) (h : HFile) (m : List Host.Cell) (x : Vector Word 16) (l r : Quint) :
    engineMove (s.withData h m x l r) = engineMove s := rfl

/-- R62: with no transaction and a silent outside world, the sequencer's move is the step, if it has one. -/
theorem nextTurn_silent {s : State} (hr : s.rst = false) (hf : s.fsel = none) (hq : s.req = none) (hh : s.host = []) :
    nextTurn s = (engineMove s).getD .idle := by
  rw [nextTurn_eq_waitTurn hr hf hq, waitTurn, outsideMove_nil hh]
  cases engineMove s <;> rfl

/-- R273: with a silent outside world, the steps from two states that differ in their data leave two that do. -/
theorem step_sameButData {s s' : State} (hd : SameButData s s') (hr : s.rst = false) (hf : s.fsel = none)
    (hq : s.req = none) (hh : s.host = []) :
    ∃ t t', step s = .next t ∧ step s' = .next t' ∧ SameButData t t' := by
  obtain ⟨h, m, x, l, r, rfl⟩ := hd
  have hturn' := nextTurn_silent (s := s.withData h m x l r) hr hf hq hh
  rw [engineMove_withData] at hturn'
  unfold step
  rw [nextTurn_silent hr hf hq hh, hturn']
  rcases engineMove_cases s with ⟨-, hm⟩ | ⟨-, hm⟩ | ⟨-, hj, -, hm⟩ | ⟨-, hj, -, hm⟩ | ⟨-, -, -, hm⟩ | ⟨-, hm⟩ <;> rw [hm]
  · exact ⟨_, _, rfl, rfl, _, _, _, _, _, rfl⟩
  · exact ⟨_, _, rfl, rfl, _, _, _, _, _, rfl⟩
  · exact ⟨_, _, microStep_inRange hj _, microStep_inRange hj _, _, _, _, _, _, rfl⟩
  · exact ⟨_, _, microStep_inRange hj _, microStep_inRange hj _, _, _, _, _, _, rfl⟩
  · exact ⟨_, _, rfl, rfl, _, _, _, _, _, rfl⟩
  · exact ⟨_, _, rfl, rfl, _, _, _, _, _, rfl⟩

/-- Settles O49: the two states differ in their data alone, and what the statement compares is no data. -/
theorem controlIsDataIndependent : Obligations.ControlIsDataIndependent := by
  intro s h m x l r hr hf hq hh
  obtain ⟨t, u, ht, hu, _, _, _, _, _, rfl⟩ := step_sameButData ⟨h, m, x, l, r, rfl⟩ hr hf hq hh
  exact ⟨t, _, ht, hu, rfl, rfl, rfl, rfl, rfl, rfl, rfl⟩

end Sys2Proof.Machine
end

section
/-! SUPPORT. The host's padding of a message (70_reset_and_hazards.md R265). -/

namespace Sys2Proof.Machine.HostSide

theorem length_le64 (n : Nat) : (le64 n).length = 8 := by simp [le64]

/-- R265: a padded message is the message, one byte 0x80, the zero bytes and eight bytes of length. -/
theorem length_pad (m : List Byte) : (pad m).length = m.length + 1 + zeroFill m.length + 8 := by
  simp [pad, length_le64]
  omega

/-- R265: the zero bytes make the padded message fill whole blocks, the fewest that hold it. -/
theorem length_pad_blocks (m : List Byte) : (pad m).length = 64 * ((m.length + 9 + 63) / 64) := by
  rw [length_pad, zeroFill]
  omega

/-- R265: a padded message begins with the message and the byte 0x80. -/
theorem pad_begins (m : List Byte) : (m ++ [0x80#8]) <+: pad m := ⟨_, (List.append_assoc _ _ _).symm⟩

/-- R265: between the byte 0x80 and the length stand the zero bytes. -/
theorem pad_zero {m : List Byte} {k : Nat} (hlow : m.length < k) (hhigh : k + 8 < (pad m).length) :
    (pad m)[k]? = some 0x00#8 := by
  rw [length_pad] at hhigh
  rw [pad, List.getElem?_append_left (by simp; omega), List.getElem?_append_right (by simp; omega),
    List.getElem?_replicate_of_lt (by simp; omega)]

/-- R265: byte k of the length field. -/
theorem getElem?_le64 (n : Nat) {k : Nat} (hk : k < 8) : (le64 n)[k]? = some (BitVec.ofNat 8 (n / 2 ^ (8 * k))) := by
  simp [le64, hk, Nat.shiftRight_eq_div_pow]

/-- R265: the last eight bytes are the length in bits. -/
theorem pad_length_field (m : List Byte) (k : Nat) :
    (pad m)[(pad m).length - 8 + k]? = (le64 (8 * m.length))[k]? := by
  rw [length_pad, pad, List.getElem?_append_right (by simp; omega)]
  congr 1
  simp; omega

/-- Settles O53: the parts of the padded message, each where R265 puts it. -/
theorem paddingFillsWholeBlocks : Obligations.PaddingFillsWholeBlocks := fun m =>
  ⟨by rw [length_pad_blocks, Nat.mul_mod_right], pad_begins m, fun _ => pad_zero,
    fun k hk => (pad_length_field m k).trans (getElem?_le64 _ hk), length_pad_blocks m⟩

end Sys2Proof.Machine.HostSide
end
